-- ==== Sys2Proof/Word.lean ====
section
/-! DEFINITION. Words and bytes of the prycut cipher engine and their plainest arithmetic (spec 00_scope.md R6, R9). -/

namespace Sys2Proof

/-- A word: "a 32-bit unsigned integer" (R6, R9). -/
abbrev Word := BitVec 32

/-- A byte: "an 8-bit unsigned integer" (R9). -/
abbrev Byte := BitVec 8

/-- `add32(a,b) = (a + b) mod 2^32` (R9). -/
abbrev add32 (a b : Word) : Word := a + b

/-- `sub32(a,b) = (a - b) mod 2^32` (R9). -/
abbrev sub32 (a b : Word) : Word := a - b

/-- `mul32(a,b) = (a * b) mod 2^32` (R9). -/
abbrev mul32 (a b : Word) : Word := a * b

/-- Four 32-bit words: a CipherKey (R6, R14). A key of another length cannot be built, so `InvalidKeyLength`
cannot arise (R207). -/
structure Key where
  k0 : Word
  k1 : Word
  k2 : Word
  k3 : Word
  deriving DecidableEq, Repr, Inhabited

/-- `key[i]` for `i` in 0..3 (R9). -/
def Key.word (k : Key) (i : BitVec 2) : Word :=
  if i = 0 then k.k0 else if i = 1 then k.k1 else if i = 2 then k.k2 else k.k3

/-- Order of the 4 bytes of a word in BUF, in the keystream buffer and in a frame payload (R7 `BYTE_ORDER`). -/
inductive ByteOrder where
  | little
  | big
  deriving DecidableEq, Repr, Inhabited

end Sys2Proof
end

