-- ==== Sys2Proof/Machine/Bytes.lean ====
section
/-! DEFINITION. Byte order: words to bytes and back (spec 00_scope.md R9, 20_memory.md R42 to R45). -/

namespace Sys2Proof

/-- `bytes_of_word` (R9): least significant byte first for `little` (R43), most significant first for `big` (R44). -/
def bytesOfWord (o : ByteOrder) (w : Word) : List Byte :=
  match o with
  | .little => [w.extractLsb' 0 8, w.extractLsb' 8 8, w.extractLsb' 16 8, w.extractLsb' 24 8]
  | .big => [w.extractLsb' 24 8, w.extractLsb' 16 8, w.extractLsb' 8 8, w.extractLsb' 0 8]

/-- `word_of_bytes(b0,b1,b2,b3) = b0 + 256*b1 + 65536*b2 + 16777216*b3` (R9, R43), and its big-endian form (R44). -/
def wordOfBytes (o : ByteOrder) (b0 b1 b2 b3 : Byte) : Word :=
  match o with
  | .little => (b3 ++ b2 ++ b1 ++ b0 : BitVec 32)
  | .big => (b0 ++ b1 ++ b2 ++ b3 : BitVec 32)

/-- The bytes of a sequence of words, "word 0 first" (R45). -/
def bytesOfWords (o : ByteOrder) (ws : List Word) : List Byte :=
  ws.flatMap (bytesOfWord o)

/-- The word at index `i` of a byte sequence (R43, R45); bytes past its end count as 0. -/
def wordAt (o : ByteOrder) (bs : List Byte) (i : Nat) : Word :=
  wordOfBytes o (bs.getD (4 * i) 0) (bs.getD (4 * i + 1) 0) (bs.getD (4 * i + 2) 0) (bs.getD (4 * i + 3) 0)

end Sys2Proof
end

