-- ==== Sys2Proof/Config.lean ====
section
/-! DEFINITION. What an implementation fixes (spec 00_scope.md R6, R7, R8, R11) and the values the spec leaves free.
A free value is an opaque constant with no body: no proof can see it. -/

namespace Sys2Proof

/-- The parameters of R7, "configuration, not state; none can change while the engine runs". A value of this type
stands in the model's `State` (assumption 1) so that a statement about every state is one about every configuration. -/
structure Config where
  /-- Capacity of VEC in words; BUF has `4*nmax` bytes (R7). -/
  nmax : Nat
  /-- The fixed key of the move-pen-up frame (R7, R154). -/
  keyPenUp : Key
  /-- The fixed key of the move-pen-down frame (R7, R155). -/
  keyPenDown : Key
  /-- The fixed key of the counter-mode unit (R7, R130). -/
  keyCtr : Key
  /-- R7, R42, R44. -/
  byteOrder : ByteOrder
  deriving DecidableEq, Repr, Inhabited

/-- The constraints of R7: `2 ≤ NMAX ≤ 16383` and `KEY_PEN_UP ≠ KEY_PEN_DOWN`. -/
def Config.wf (c : Config) : Bool :=
  decide (2 ≤ c.nmax) && decide (c.nmax ≤ 16383) && decide (c.keyPenUp ≠ c.keyPenDown)

/-- `4*NMAX`, the number of bytes of BUF (R7, R40). -/
def Config.bufBytes (c : Config) : Nat := 4 * c.nmax

/-- `DELTA = 0x9e3779b9` (R6, R102). -/
def Config.delta : Word := 0x9E3779B9#32

/-- The marker word 12345, word 0 of every move payload (R6, R154). -/
def Config.marker : Word := 12345#32

/-- Value OPEN in the spec (R7, U5). -/
opaque Config.deviceKeyPenUp : Key

/-- Value OPEN in the spec (R7, U5); `Config.device` makes it differ from the pen-up key. -/
opaque Config.deviceKeyPenDownDraw : Key

/-- Value OPEN in the spec (R7, U5). -/
opaque Config.deviceKeyCtr : Key

/-- The pen-down key under R7's one constraint: the draw where it differs from the pen-up key, else the pen-up key
with its first word changed. Every allowed pair of keys is a possible pair of draws. -/
def Config.deviceKeyPenDown : Key :=
  if deviceKeyPenDownDraw = deviceKeyPenUp then
    { deviceKeyPenUp with k0 := deviceKeyPenUp.k0 + 1 }
  else deviceKeyPenDownDraw

/-- The configuration the reset state carries: the defaults of R7 (`NMAX = 64`, `BYTE_ORDER = little`) and the open keys. -/
def Config.device : Config where
  nmax := 64
  keyPenUp := deviceKeyPenUp
  keyPenDown := deviceKeyPenDown
  keyCtr := deviceKeyCtr
  byteOrder := .little

/-- Free value: the data of the `n`-th faulting read (R49, R52, U10). -/
opaque Config.faultReadData : Nat → Word

/-- Free value: what counter register `index` (6 `HIGH`, 7 `LOW`, 8 `CUR`) reads as while `CVALID = 0` after
`resets` reset events (R21, U9). It does not change between two reads, so it is stable (R25). -/
opaque Config.uninitCounterRead : (resets index : Nat) → Word

/-- Free value: what register `index` holds after the `n`-th reset event (R220, U8). -/
opaque Config.resetWord : (n index : Nat) → Word

/-- Free value: byte `i` of KS after the `n`-th reset event (R220, U8). -/
opaque Config.resetKs : (n i : Nat) → Byte

/-- Free value: byte `addr` of BUF after the `n`-th reset event (R220, U8). -/
opaque Config.resetByte : (n addr : Nat) → Byte

/-- Free value: whether `awaitReply`'s poll ends when MORE bytes than expected are buffered (R179, N26: "equal, or at
least"; assumption 13). -/
opaque Config.pollTakesMore : Bool

/-- Free value: the baud rate `connect()` sets (R171: not given; assumption 14). -/
opaque Config.baudRate : Nat

/-- Free value: the read and write timeouts `connect()` sets, in milliseconds (R171: not given; assumption 14). -/
opaque Config.linkTimeouts : Nat × Nat

end Sys2Proof
end

