-- ==== Sys2Proof/Machine/Cipher.lean ====
section
/-! DEFINITION. The block transform: the pure procedures `MX`, `Encode`, `Decode` (spec 40_block_transform.md R101 to
R104). A word array `W` is a list of at least `n` words, updated by index as the spec's pseudocode writes it. -/

namespace Sys2Proof.Cipher

/-- `MX(y, z, sum, e, p, key)` (R101): `add32(A,B) ^ add32(C,D)`, the XOR of two sums (conflict C5). Shifts are logical. -/
def mx (y z sum : Word) (e : BitVec 2) (p : Nat) (key : Key) : Word :=
  let a := (z >>> 5) ^^^ (y <<< 2)
  let b := (y >>> 3) ^^^ (z <<< 4)
  let c := sum ^^^ y
  let d := key.word (BitVec.ofNat 2 p ^^^ e) ^^^ z
  add32 a b ^^^ add32 c d

/-- The round count `q = 6 + floor(52 / n)` (R6, R102). -/
def rounds (n : Nat) : Nat := 6 + 52 / n

/-- `e = (sum >> 2) & 3` (R102). -/
def keySel (sum : Word) : BitVec 2 := sum.extractLsb' 2 2

/-- One update of `Encode` (R102): `W[p] = add32(W[p], MX(y, z, sum, e, p, key)); z = W[p]`. The pair is `(W, z)`. -/
def encodeStep (key : Key) (sum : Word) (p : Nat) (y : Word) (st : List Word × Word) : List Word × Word :=
  let w := add32 (st.1.getD p 0) (mx y st.2 sum (keySel sum) p key)
  (st.1.set p w, w)

/-- One round of `Encode` (R102): words 0 to `n-2` with `y = W[p+1]`, then word `n-1` with `y = W[0]`. -/
def encodeRound (n : Nat) (key : Key) (sum : Word) (st : List Word × Word) : List Word × Word :=
  let st1 := (List.range (n - 1)).foldl
    (fun t p => encodeStep key sum p (t.1.getD (p + 1) 0) t) st
  encodeStep key sum (n - 1) (st1.1.getD 0 0) st1

/-- `repeat q times: sum = add32(sum, DELTA); …` (R102). -/
def encodeLoop (n : Nat) (key : Key) : Nat → Word → List Word × Word → List Word × Word
  | 0, _, st => st
  | q + 1, sum, st =>
    encodeLoop n key q (add32 sum Config.delta) (encodeRound n key (add32 sum Config.delta) st)

/-- `Encode(W, n, key)` (R102). -/
def encode (ws : List Word) (n : Nat) (key : Key) : List Word :=
  (encodeLoop n key (rounds n) 0 (ws, ws.getD (n - 1) 0)).1

/-- One update of `Decode` (R103): `W[p] = sub32(W[p], MX(y, z, sum, e, p, key)); y = W[p]`. The pair is `(W, y)`. -/
def decodeStep (key : Key) (sum : Word) (p : Nat) (z : Word) (st : List Word × Word) : List Word × Word :=
  let w := sub32 (st.1.getD p 0) (mx st.2 z sum (keySel sum) p key)
  (st.1.set p w, w)

/-- One round of `Decode` (R103): words `n-1` down to 1 with `z = W[p-1]`, then word 0 with `z = W[n-1]`. -/
def decodeRound (n : Nat) (key : Key) (sum : Word) (st : List Word × Word) : List Word × Word :=
  let st1 := (List.range (n - 1)).reverse.foldl
    (fun t i => decodeStep key sum (i + 1) (t.1.getD i 0) t) st
  decodeStep key sum 0 (st1.1.getD (n - 1) 0) st1

/-- `while sum != 0: …; sum = sub32(sum, DELTA)` (R103). The fuel is the round count `q`: "the loop body runs exactly
`q` times" (R103, R104 (a)), so it neither runs out before `sum` is 0 nor outlives it
(assumption 15). -/
def decodeLoop (n : Nat) (key : Key) : Nat → Word → List Word × Word → List Word × Word
  | 0, _, st => st
  | q + 1, sum, st =>
    if sum = 0 then st
    else decodeLoop n key q (sub32 sum Config.delta) (decodeRound n key sum st)

/-- `Decode(W, n, key)` (R103): `sum = mul32(q, DELTA)`, `y = W[0]`. -/
def decode (ws : List Word) (n : Nat) (key : Key) : List Word :=
  (decodeLoop n key (rounds n) (mul32 (BitVec.ofNat 32 (rounds n)) Config.delta) (ws, ws.getD 0 0)).1

end Sys2Proof.Cipher
end

