-- ==== Sys2Proof/Syntax.lean ====
section
/-! DEFINITION. What can be asked of the machine: the instructions (one constructor per row of
spec/opcode_table.json), the host's accesses to the engine's port (20_memory.md R46), the host software's calls and the
link's events (44_host_protocol.md), and the assembler lines (30_encoding.md R75, R76). -/

namespace Sys2Proof

/-- The rows of spec/opcode_table.json: the 13 command-word operations of R72 (format `CMD`) and the 5 wire frames of
R74 (format `WIRE`). Operands are the integers R71 assembles: `n` is `N`, `len` is `LEN`. -/
inductive Instr where
  /-- `XFORM n` (R100), `-32768 ≤ n ≤ 32767`. -/
  | xform (n : Int)
  /-- `ENCB len` (R105), `len ≤ 65535`. -/
  | encb (len : Nat)
  /-- `DECB len` (R106), `len ≤ 65535`. -/
  | decb (len : Nat)
  /-- `CTRINIT0` (R133). -/
  | ctrinit0
  /-- `CTRINIT` (R132). -/
  | ctrinit
  /-- `CTRREGEN` (R134). -/
  | ctrregen
  /-- `CTRNEXT` (R135). -/
  | ctrnext
  /-- `CTRXOR len` (R136), `len ≤ 65535`. -/
  | ctrxor (len : Nat)
  /-- `FRQRY` (R151). -/
  | frqry
  /-- `FRSTART` (R152). -/
  | frstart
  /-- `FRSTOP` (R153). -/
  | frstop
  /-- `FRMVU` (R154). -/
  | frmvu
  /-- `FRMVD` (R155). -/
  | frmvd
  /-- The wire frame "query mat-loaded" (R74), as it goes to the plotter. -/
  | wireQueryMatLoaded
  /-- The wire frame "start cut" (R74). -/
  | wireStartCut
  /-- The wire frame "stop cut" (R74). -/
  | wireStopCut
  /-- The wire frame "move pen up" (R74) with its 12 payload bytes. -/
  | wireMovePenUp (payload : List Byte)
  /-- The wire frame "move pen down" (R74) with its 12 payload bytes. -/
  | wireMovePenDown (payload : List Byte)
  deriving DecidableEq, Repr

/-- The two byte spaces of R40. -/
inductive Space where
  | buf
  | frm
  deriving DecidableEq, Repr

/-- The five kinds of host action (R46). A register access carries its width in bits and a memory access its width in
bytes, because an access of a wrong width is an action the host can perform and the engine answers (R49, R52). -/
inductive HostAction where
  /-- `RegRead(i)` with `width` bits. -/
  | regRead (index width : Nat)
  /-- `RegWrite(i, v)` with `width` bits. -/
  | regWrite (index width : Nat) (v : Word)
  /-- `MemRead(space, addr, n)`. -/
  | memRead (space : Space) (addr n : Nat)
  /-- `MemWrite(space, addr, n, v)`. -/
  | memWrite (space : Space) (addr n : Nat) (v : Word)
  /-- The reset event (R220). -/
  | reset
  deriving DecidableEq, Repr

/-- The calls of ProtocolClient (R173 to R179). `sendFrame` is `Event.wire`. -/
inductive ClientCall where
  | connect
  | disconnect
  | queryMatLoaded
  | start
  | stop
  | movePenUp (x y : Word)
  | movePenDown (x y : Word)
  | awaitReply (expected : Nat)
  deriving DecidableEq, Repr

/-- One thing that happens next: the model reads these, oldest first, from its agenda (assumption 2). -/
inductive Event where
  /-- The host acts on the engine's port (R46). -/
  | port (a : HostAction)
  /-- The host puts a wire frame on the link: `sendFrame(frame)` (R178). -/
  | wire (frame : List Byte)
  /-- The host software makes a call (R173 to R179). -/
  | call (c : ClientCall)
  /-- Bytes arrive from the device and are buffered for reading (R171). -/
  | received (bytes : List Byte)
  /-- The wall-clock deadline of a wait elapses (R179). -/
  | deadline
  /-- What the outside makes of the link: how many devices are listed, whether configuring works, and how many more
  bytes it accepts before a link error (`none`: without limit) (R171, R173, R178). -/
  | linkIs (devices : Nat) (configures : Bool) (accepts : Option Nat)
  deriving DecidableEq, Repr

/-- The register names of the map R24. -/
inductive RegName where
  | CMD | STATUS | ARG0 | ARG1 | RES | FLEN | HIGH | LOW | CUR | K0 | K1 | K2 | K3
  deriving DecidableEq, Repr

/-- One line of the assembler of R75 or a pseudo-instruction of R76. -/
inductive Asm where
  /-- One of the 13 operation lines. -/
  | op (i : Instr)
  | setr (r : RegName) (v : Word)
  | getr (r : RegName)
  | stw (a : Nat) (v : Word)
  | stb (a : Nat) (v : Word)
  | ldw (a : Nat)
  | ldb (a : Nat)
  | ldfw (a : Nat)
  | ldfb (a : Nat)
  | reset
  | enc (n : Nat)
  | dec (n : Nat)
  | ctrenc (len : Nat)
  | ctrdec (len : Nat)
  | ldkey (k0 k1 k2 k3 : Word)
  | mvu (x y : Word)
  | mvd (x y : Word)
  deriving DecidableEq, Repr

end Sys2Proof
end

