-- ==== Sys2Proof/WellFormed.lean ====
section
/-! DEFINITION. Which instructions and assembler lines are well formed (spec 30_encoding.md R71, R74, R75, R76). -/

namespace Sys2Proof

/-- The operand ranges of R75 (`-32768 ≤ n ≤ 32767`, `0 ≤ len ≤ 65535`) and the payload length of R74 (12 bytes). -/
def Instr.wf : Instr → Bool
  | .xform n => decide (-32768 ≤ n) && decide (n ≤ 32767)
  | .encb len => decide (len ≤ 65535)
  | .decb len => decide (len ≤ 65535)
  | .ctrinit0 => true
  | .ctrinit => true
  | .ctrregen => true
  | .ctrnext => true
  | .ctrxor len => decide (len ≤ 65535)
  | .frqry => true
  | .frstart => true
  | .frstop => true
  | .frmvu => true
  | .frmvd => true
  | .wireQueryMatLoaded => true
  | .wireStartCut => true
  | .wireStopCut => true
  | .wireMovePenUp payload => decide (payload.length = 12)
  | .wireMovePenDown payload => decide (payload.length = 12)

/-- Whether an instruction is one of the 13 operations of R72; the other five are wire frames (R74). -/
def Instr.isCommand : Instr → Bool
  | .xform _ => true
  | .encb _ => true
  | .decb _ => true
  | .ctrinit0 => true
  | .ctrinit => true
  | .ctrregen => true
  | .ctrnext => true
  | .ctrxor _ => true
  | .frqry => true
  | .frstart => true
  | .frstop => true
  | .frmvu => true
  | .frmvd => true
  | .wireQueryMatLoaded => false
  | .wireStartCut => false
  | .wireStopCut => false
  | .wireMovePenUp _ => false
  | .wireMovePenDown _ => false

/-- An operation line names one of the 13 operations with operands in range (R75); `ENC n` and `DEC n` want `2 ≤ n`
(R76) and a count whose command word exists. -/
def Asm.wf : Asm → Bool
  | .op i => i.isCommand && i.wf
  | .enc n => decide (2 ≤ n) && decide (n ≤ 32767)
  | .dec n => decide (2 ≤ n) && decide (n ≤ 32768)
  | .ctrenc len => decide (len ≤ 65535)
  | .ctrdec len => decide (len ≤ 65535)
  | .setr _ _ => true
  | .getr _ => true
  | .stw _ _ => true
  | .stb _ _ => true
  | .ldw _ => true
  | .ldb _ => true
  | .ldfw _ => true
  | .ldfb _ => true
  | .reset => true
  | .ldkey _ _ _ _ => true
  | .mvu _ _ => true
  | .mvd _ _ => true

end Sys2Proof
end

