-- ==== Sys2Proof/Decode.lean ====
section
/-! DEFINITION. The decoder of command words (spec 30_encoding.md R70 to R73) and of wire frames (R74), the encoder, and
the expansion of assembler lines (R75, R76). -/

namespace Sys2Proof

/-- Why bits are no instruction. -/
inductive DecodeReject where
  /-- `Z ≠ 0` with any `OP` (R73). -/
  | nonzeroZ
  /-- `IMM ≠ 0` with an `OP` whose row says `IMM` is 0 (R73). -/
  | nonzeroImm
  /-- An `OP` not in the table of R72 (R73). -/
  | reservedOp
  /-- A byte sequence that is none of the five frames of R74. -/
  | notAFrame
  deriving DecidableEq, Repr

/-- `OP`, bits 7:0 of a command word (R70). -/
def opField (w : Word) : BitVec 8 := w.extractLsb' 0 8

/-- `IMM`, bits 23:8 (R70). -/
def immField (w : Word) : BitVec 16 := w.extractLsb' 8 16

/-- `Z`, bits 31:24 (R70). -/
def zField (w : Word) : BitVec 8 := w.extractLsb' 24 8

/-- `N = sext_16(IMM)` (R71). -/
def immN (imm : BitVec 16) : Int := imm.toInt

/-- `LEN = zext(IMM)` (R71). -/
def immLen (imm : BitVec 16) : Nat := imm.toNat

/-- The operations whose row says `IMM` is 0 (R72). -/
def decodeFixed (op : BitVec 8) : Option Instr :=
  match op.toNat with
  | 0x10 => some .ctrinit0
  | 0x11 => some .ctrinit
  | 0x12 => some .ctrregen
  | 0x13 => some .ctrnext
  | 0x30 => some .frqry
  | 0x31 => some .frstart
  | 0x32 => some .frstop
  | 0x33 => some .frmvu
  | 0x34 => some .frmvd
  | _ => none

/-- The operations that take an immediate (R72). -/
def decodeWithImm (op : BitVec 8) (imm : BitVec 16) : Option Instr :=
  match op.toNat with
  | 0x01 => some (.xform (immN imm))
  | 0x02 => some (.encb (immLen imm))
  | 0x03 => some (.decb (immLen imm))
  | 0x14 => some (.ctrxor (immLen imm))
  | _ => none

/-- The operation a command word selects (R72), or why it is illegal (R73). -/
def decode (w : Word) : Except DecodeReject Instr :=
  if zField w ≠ 0 then .error .nonzeroZ
  else match decodeWithImm (opField w) (immField w) with
    | some i => .ok i
    | none =>
      match decodeFixed (opField w) with
      | some i => if immField w = 0 then .ok i else .error .nonzeroImm
      | none => .error .reservedOp

/-- Whether a 12-byte payload, decrypted under `key`, begins with the marker word (R154, R156 (b)). -/
def hasMarker (c : Config) (key : Key) (payload : List Byte) : Bool :=
  let o := c.byteOrder
  let ws := [wordAt o payload 0, wordAt o payload 1, wordAt o payload 2]
  decide ((Cipher.decode ws 3 key).getD 0 0 = Config.marker)

/-- Which move frame carries a payload. The bytes alone do not say: a decoder "cannot tell them apart from the bytes
without trying both keys" (R74), so both are tried. A payload that is the pen-down key's alone is a pen-down frame and
any other a pen-up frame (assumption 9); the two have one effect on the link. -/
def moveFrame (c : Config) (payload : List Byte) : Instr :=
  if !hasMarker c c.keyPenUp payload && hasMarker c c.keyPenDown payload then .wireMovePenDown payload
  else .wireMovePenUp payload

/-- The wire frame a byte sequence is (R74): its header bytes, its fixed pattern and its total length. -/
def decodeWire (c : Config) (bytes : List Byte) : Except DecodeReject Instr :=
  match bytes with
  | lenByte :: opByte :: payload =>
    if lenByte = 0x04#8 ∧ payload = [0x00#8, 0x00#8, 0x00#8] then
      if opByte = 0x14#8 then .ok .wireQueryMatLoaded
      else if opByte = 0x21#8 then .ok .wireStartCut
      else if opByte = 0x22#8 then .ok .wireStopCut
      else .error .notAFrame
    else if lenByte = 0x0D#8 ∧ opByte = 0x40#8 ∧ payload.length = 12 then .ok (moveFrame c payload)
    else .error .notAFrame
  | _ => .error .notAFrame

/-- An instruction as the hardware's channels carry it: a command word written to `CMD` (R70) or a frame's bytes in wire
order (R74). -/
inductive Encoding where
  | cmd (w : Word)
  | frame (bytes : List Byte)
  deriving DecidableEq, Repr

/-- A command word from its fields (R70). -/
def cmdWord (op : BitVec 8) (imm : BitVec 16) : Word := (0#8 ++ imm ++ op : BitVec 32)

/-- The words of an instruction, from the tables R72 and R74. -/
def encode : Instr → Encoding
  | .xform n => .cmd (cmdWord 0x01#8 (BitVec.ofInt 16 n))
  | .encb len => .cmd (cmdWord 0x02#8 (BitVec.ofNat 16 len))
  | .decb len => .cmd (cmdWord 0x03#8 (BitVec.ofNat 16 len))
  | .ctrinit0 => .cmd (cmdWord 0x10#8 0#16)
  | .ctrinit => .cmd (cmdWord 0x11#8 0#16)
  | .ctrregen => .cmd (cmdWord 0x12#8 0#16)
  | .ctrnext => .cmd (cmdWord 0x13#8 0#16)
  | .ctrxor len => .cmd (cmdWord 0x14#8 (BitVec.ofNat 16 len))
  | .frqry => .cmd (cmdWord 0x30#8 0#16)
  | .frstart => .cmd (cmdWord 0x31#8 0#16)
  | .frstop => .cmd (cmdWord 0x32#8 0#16)
  | .frmvu => .cmd (cmdWord 0x33#8 0#16)
  | .frmvd => .cmd (cmdWord 0x34#8 0#16)
  | .wireQueryMatLoaded => .frame [0x04#8, 0x14#8, 0x00#8, 0x00#8, 0x00#8]
  | .wireStartCut => .frame [0x04#8, 0x21#8, 0x00#8, 0x00#8, 0x00#8]
  | .wireStopCut => .frame [0x04#8, 0x22#8, 0x00#8, 0x00#8, 0x00#8]
  | .wireMovePenUp payload => .frame (0x0D#8 :: 0x40#8 :: payload)
  | .wireMovePenDown payload => .frame (0x0D#8 :: 0x40#8 :: payload)

/-- Decoding either channel. -/
def decodeEncoding (c : Config) : Encoding → Except DecodeReject Instr
  | .cmd w => decode w
  | .frame bytes => decodeWire c bytes

/-- The command word of an operation line (R75); a wire frame has none and gives the reserved word 0. -/
def commandWord (i : Instr) : Word :=
  match encode i with
  | .cmd w => w
  | .frame _ => 0#32

/-- A number's bytes, least significant first: byte `k` is bits `8k+7 : 8k`. -/
def tableBytes (n w : Nat) : List Byte :=
  (List.range n).map fun k => BitVec.ofNat 8 (w >>> (8 * k))

/-- The bits of an opcode-table row as its channel carries them. A command word is "always 32 bits (no other length …)"
(R70); any other number of bits belongs to a frame, the first byte the least significant, and where the row gives fewer
bytes than the frame has (its first byte counts those after it, R74) the rest are 0
(assumption 16). -/
def tableEncoding (nbits w : Nat) : Encoding :=
  let v := w % 2 ^ nbits
  if nbits = 32 then .cmd (BitVec.ofNat 32 v)
  else .frame (tableBytes (max (nbits / 8) (v % 256 + 1)) v)

/-- What the decoder reads from a row's bits, as spec/opcode_table.json numbers them. -/
def decodeTableWord (nbits w : Nat) : Option Instr :=
  match decodeEncoding Config.device (tableEncoding nbits w) with
  | .ok i => some i
  | .error _ => none

/-- The index of a register name (R24). -/
def RegName.index : RegName → Nat
  | .CMD => 0
  | .STATUS => 1
  | .ARG0 => 2
  | .ARG1 => 3
  | .RES => 4
  | .FLEN => 5
  | .HIGH => 6
  | .LOW => 7
  | .CUR => 8
  | .K0 => 12
  | .K1 => 13
  | .K2 => 14
  | .K3 => 15

/-- Issuing an operation is `RegWrite(0, cmdword)` (R46). -/
def issueAction (i : Instr) : HostAction := .regWrite 0 32 (commandWord i)

/-- `SETR r, v` is `RegWrite(index of r, v)` (R75). -/
def setrAction (r : RegName) (v : Word) : HostAction := .regWrite r.index 32 v

/-- The host actions of an assembler line (R75) or pseudo-instruction (R76). -/
def Asm.expand : Asm → List HostAction
  | .op i => [issueAction i]
  | .setr r v => [setrAction r v]
  | .getr r => [.regRead r.index 32]
  | .stw a v => [.memWrite .buf a 4 v]
  | .stb a v => [.memWrite .buf a 1 v]
  | .ldw a => [.memRead .buf a 4]
  | .ldb a => [.memRead .buf a 1]
  | .ldfw a => [.memRead .frm a 4]
  | .ldfb a => [.memRead .frm a 1]
  | .reset => [.reset]
  | .enc n => [issueAction (.xform n)]
  | .dec n => [issueAction (.xform (-n))]
  | .ctrenc len => [issueAction (.ctrxor len)]
  | .ctrdec len => [issueAction (.ctrxor len)]
  | .ldkey k0 k1 k2 k3 => [setrAction .K0 k0, setrAction .K1 k1, setrAction .K2 k2, setrAction .K3 k3]
  | .mvu x y => [setrAction .ARG0 x, setrAction .ARG1 y, issueAction .frmvu]
  | .mvd x y => [setrAction .ARG0 x, setrAction .ARG1 y, issueAction .frmvd]

end Sys2Proof
end

