-- ==== Sys2Proof/Machine/State.lean ====
section
/-! DEFINITION. The machine's state as plain data (spec 10_state.md R10 to R25; 44_host_protocol.md R170 to R180 for the
environment), the reasons a step can stop, and the state after reset (R25). -/

namespace Sys2Proof.Machine

/-- The result codes of `STATUS.CODE` (R200). Codes 8 to 15 are reserved and never produced. -/
inductive ResultCode where
  | ok
  | degenerate
  | invalidPayloadLength
  | invalidKeyLength
  | vectorRange
  | ctrUninit
  | illegalOp
  | accessFault
  deriving DecidableEq, Repr

/-- What the port answers the host's last access with (R10 `Reply`, R47, R50). -/
inductive Reply where
  /-- A write, a reset, or no access yet: no data. -/
  | none
  /-- The value a read returned. -/
  | data (w : Word)
  deriving DecidableEq, Repr

/-- The reply a blocked host call waits for (R175, R177, R179). -/
inductive Pending where
  /-- `queryMatLoaded` waits for 5 bytes (R175). -/
  | query
  /-- A move call waits for 5 bytes (R177). -/
  | move
  /-- `awaitReply(expected)` called by itself (R179). -/
  | reply (expected : Nat)
  deriving DecidableEq, Repr

/-- The states of ProtocolClient (R172). -/
inductive Phase where
  | disconnected
  | connected
  | awaiting (p : Pending)
  deriving DecidableEq, Repr

/-- What the last host call or frame write returned (R173 to R179, R182). -/
inductive CallResult where
  | none
  /-- `NoDeviceFound`, "not a fatal error" (R173, R182). -/
  | noDevice
  /-- `LinkConfigurationError` (R173, R182). -/
  | linkConfigurationError
  | connected
  | disconnected
  /-- The frame's bytes were all written (R176, R178). -/
  | written
  /-- The link refused a byte of the frame (R178 "propagating a link error"). -/
  | linkError
  /-- The answer of `queryMatLoaded` (R175). -/
  | matLoaded (yes : Bool)
  /-- The answer of a move call (R177). -/
  | moved (ok : Bool)
  /-- The bytes `awaitReply` returned (R179). -/
  | replyBytes (bytes : List Byte)
  deriving DecidableEq, Repr

/-- The framing `setDataFraming(bits, parity, stopBits)` sets, as numbers of bits: 8, 0, 1 is "8-bits-no-parity-one-stop"
(R171). -/
structure DataFraming where
  bits : Nat
  parity : Nat
  stopBits : Nat
  deriving DecidableEq, Repr

/-- What has been set on an opened link, each setting by its own call (R171, R173); `none` is not set yet. -/
structure LinkSettings where
  /-- Bits per second. -/
  baud : Option Nat
  /-- The read and the write timeout, in milliseconds. -/
  timeouts : Option (Nat × Nat)
  framing : Option DataFraming
  deriving DecidableEq, Repr

/-- No setting made. -/
def LinkSettings.unset : LinkSettings where
  baud := none
  timeouts := none
  framing := none

/-- The TransportLink (R171): the outside's part (`devices`, `configures`, `accepts`, `rx`) and the host's. -/
structure Link where
  /-- How many device handles `listDevices()` gives. -/
  devices : Nat
  /-- Whether setting baud rate, timeouts and framing works. -/
  configures : Bool
  /-- How many more bytes `write` takes before a link error; `none` is without limit. -/
  accepts : Option Nat
  /-- The index of the open device, if the link is open. -/
  handle : Option Nat
  /-- The settings made so far. -/
  settings : LinkSettings
  /-- The bytes written to the device so far, oldest first. -/
  tx : List Byte
  /-- The bytes buffered for reading, oldest first. R180 calls the reply's length bounded by a bound it does not give; the
  model puts none on it (assumption 18, DESIGN CHOICE). -/
  rx : List Byte
  deriving DecidableEq, Repr

/-- The machine: the engine's configuration and state, the port's last answer, what is to happen next, and the
environment the engine's frames go to. -/
structure State where
  /-- The configuration (R7, R11), which no step changes (assumption 1). -/
  cfg : Config
  /-- BUF, which is VEC (R13, R43), as bytes in canonical form; an unlisted address reads as 0 (assumption 4). -/
  buf : List Host.Cell
  /-- `K`, the key operand register (R14). -/
  k : Key
  /-- `ARG0` (R15). -/
  arg0 : Word
  /-- `ARG1` (R15). -/
  arg1 : Word
  /-- `RES` (R16). -/
  res : Word
  /-- `STATUS.CODE` (R17). -/
  code : ResultCode
  /-- `STATUS.FAULT` (R17, R202). -/
  fault : Bool
  /-- `STATUS.CVALID` (R17). -/
  cvalid : Bool
  /-- `HIGH` (R18). -/
  high : Word
  /-- `LOW` (R18). -/
  low : Word
  /-- `KS`, the keystream buffer (R19). -/
  ks : Vector Byte 8
  /-- `CUR`, the cursor into `KS`, 4 bits (R20). -/
  cur : BitVec 4
  /-- `FRM`, the frame buffer (R22). -/
  frm : Vector Byte 16
  /-- `FLEN`, 5 bits (R22). -/
  flen : BitVec 5
  /-- The port's answer to the last access (R10 `Reply`). -/
  reply : Reply
  /-- The model's own: what happens next, oldest first (assumption 2). -/
  agenda : List Event
  /-- The model's own: how many faulting reads have drawn a free value (assumption 5). -/
  faultReads : Nat
  /-- The model's own: how many reset events there have been (assumption 6). -/
  resets : Nat
  /-- The environment: the state of ProtocolClient (R172). -/
  phase : Phase
  /-- The environment: what the last host call returned (R173 to R179). -/
  callResult : CallResult
  /-- The environment: the TransportLink (R171). -/
  link : Link
  deriving DecidableEq, Repr

/-- A step of this machine never faults: every error is reported in `STATUS` and the run goes on (R201, R215), and "the
engine cannot hang and has no stuck state" (R230). The type is empty, so no step can answer with a fault. -/
inductive Fault where
  deriving DecidableEq, Repr

/-- Why a step has no meaning. -/
inductive Refusal where
  /-- Raised by an arm of `exec` for an instruction without a meaning; none is left. Safe. -/
  | notModelled (mnemonic : String)
  /-- Raised by a host call in a phase of ProtocolClient for which the spec describes no such call (R172): a command
  or `awaitReply` while not connected, `connect` while connected. It is about the host software, never the engine
  (assumption 7). Safe. -/
  | callOutsideProtocol (c : ClientCall)
  /-- Raised by putting bytes on the link as a frame that are none of the frames of R74 (assumption 7). Safe. -/
  | notAWireFrame
  deriving DecidableEq, Repr

/-- The outcome of a step of this machine. -/
abbrev Result := Host.Outcome State Fault Refusal

/-- The link before anything is plugged in or opened (assumption 8). -/
def Link.closed : Link where
  devices := 0
  configures := true
  accepts := none
  handle := none
  settings := LinkSettings.unset
  tx := []
  rx := []

/-- The machine right after reset (R25): `STATUS`, `RES`, `FLEN`, `FRM` are 0 as the spec says; `VEC`, `K`, `ARG0`,
`ARG1`, `HIGH`, `LOW`, `CUR`, `KS`, unspecified in the spec, hold 0 (assumption 3, DESIGN CHOICE). -/
def State.reset : State where
  cfg := Config.device
  buf := []
  k := ⟨0, 0, 0, 0⟩
  arg0 := 0
  arg1 := 0
  res := 0
  code := .ok
  fault := false
  cvalid := false
  high := 0
  low := 0
  ks := Vector.replicate 8 0
  cur := 0
  frm := Vector.replicate 16 0
  flen := 0
  reply := .none
  agenda := []
  faultReads := 0
  resets := 0
  phase := .disconnected
  callResult := .none
  link := Link.closed

end Sys2Proof.Machine
end

