-- ==== Sys2Proof/Machine/Flags.lean ====
section
/-! DEFINITION. The status register (spec 10_state.md R17, 60_exceptions.md R200, R204). The engine has no arithmetic
flag: "wraparound, no overflow signal" (R9, R17). -/

namespace Sys2Proof.Machine

/-- The number of a result code (R200). -/
def ResultCode.value : ResultCode → BitVec 4
  | .ok => 0
  | .degenerate => 1
  | .invalidPayloadLength => 2
  | .invalidKeyLength => 3
  | .vectorRange => 4
  | .ctrUninit => 5
  | .illegalOp => 6
  | .accessFault => 7

/-- A fatal code sets the sticky `FAULT`: every code but `OK` and `Degenerate` (R200, R204). -/
def ResultCode.fatal : ResultCode → Bool
  | .ok => false
  | .degenerate => false
  | .invalidPayloadLength => true
  | .invalidKeyLength => true
  | .vectorRange => true
  | .ctrUninit => true
  | .illegalOp => true
  | .accessFault => true

/-- `STATUS` as one register (R17): `CODE` in 3:0, `FAULT` in bit 8, `CVALID` in bit 9, every other bit 0. -/
def State.statusWord (s : State) : Word :=
  (0#22 ++ BitVec.ofBool s.cvalid ++ BitVec.ofBool s.fault ++ 0#4 ++ s.code.value : BitVec 32)

end Sys2Proof.Machine
end

