-- ==== Sys2Proof/Machine/Ops.lean ====
section
/-! DEFINITION. The named operations over the status, BUF/VEC and FRM (spec 20_memory.md R43, R44; 60_exceptions.md
R201, R203; 42_command_frames.md R150). Reporting an error is this hardware's taking of an exception, and it is one
operation, `State.fail`: "there is no trap entry … the whole effect of an error is rule R201" (R215), and no return
from one (R216). -/

namespace Sys2Proof.Machine

/-- `fail C` (R9, R201): `STATUS.CODE <- C`, and `STATUS.FAULT <- 1` if `C` is fatal; nothing else changes. -/
def State.fail (s : State) (c : ResultCode) : State :=
  { s with code := c, fault := s.fault || c.fatal }

/-- `succeed` (R9, R203): `STATUS.CODE <- 0`; `FAULT` and `CVALID` keep their values. -/
def State.succeed (s : State) : State :=
  { s with code := .ok }

/-- What an address no entry lists reads as: the model's choice for BUF after reset (assumption 4). -/
def Memory.unlisted : Byte := 0

/-- The byte at an address. -/
def Memory.read : List Host.Cell → Nat → Byte
  | [], _ => Memory.unlisted
  | (k, b) :: m, a => if a = k then b else Memory.read m a

/-- Writing a byte, keeping the canonical form: writing what an unlisted address reads as removes the entry. -/
def Memory.write : List Host.Cell → Nat → Byte → List Host.Cell
  | [], a, b => if b = Memory.unlisted then [] else [(a, b)]
  | (k, c) :: m, a, b =>
    if a < k then (if b = Memory.unlisted then (k, c) :: m else (a, b) :: (k, c) :: m)
    else if a = k then (if b = Memory.unlisted then m else (a, b) :: m)
    else (k, c) :: Memory.write m a b

/-- The memory whose bytes at addresses below `n` are `f`'s and whose other addresses are unlisted. -/
def Memory.ofBytes (f : Nat → Byte) (n : Nat) : List Host.Cell :=
  (List.range n).filterMap fun a => if f a = Memory.unlisted then none else some (a, f a)

/-- The canonical form: addresses strictly rising, no entry equal to what an unlisted address reads as. -/
def Memory.wf : List Host.Cell → Bool
  | [] => true
  | (k, b) :: m => decide (b ≠ Memory.unlisted) && m.all (fun c => decide (k < c.1)) && Memory.wf m

/-- `BUF[a]` (R9, R43). -/
def State.bufByte (s : State) (a : Nat) : Byte := Memory.read s.buf a

/-- `BUF[a] <- b` (R51). -/
def State.setBufByte (s : State) (a : Nat) (b : Byte) : State :=
  { s with buf := Memory.write s.buf a b }

/-- `VEC[i]`, the word of `BUF[4i .. 4i+3]` (R43, R44). -/
def State.vecWord (s : State) (i : Nat) : Word :=
  wordOfBytes s.cfg.byteOrder (s.bufByte (4 * i)) (s.bufByte (4 * i + 1)) (s.bufByte (4 * i + 2)) (s.bufByte (4 * i + 3))

/-- Writing bytes at consecutive addresses, the first at `a`. -/
def State.setBufBytes (s : State) (a : Nat) : List Byte → State
  | [] => s
  | b :: bs => State.setBufBytes (s.setBufByte a b) (a + 1) bs

/-- `VEC[i] <- w` (R43, R51): the four bytes of `w` at `4i .. 4i+3`. -/
def State.setVecWord (s : State) (i : Nat) (w : Word) : State :=
  s.setBufBytes (4 * i) (bytesOfWord s.cfg.byteOrder w)

/-- `VEC[0 .. n-1]`. -/
def State.loadVec (s : State) (n : Nat) : List Word :=
  (List.range n).map s.vecWord

/-- Writing words at consecutive indices of VEC, the first at `i`. -/
def State.storeVecFrom (s : State) (i : Nat) : List Word → State
  | [] => s
  | w :: ws => State.storeVecFrom (s.setVecWord i w) (i + 1) ws

/-- `VEC[0 .. ws.length-1] <- ws`. -/
def State.storeVec (s : State) (ws : List Word) : State := s.storeVecFrom 0 ws

/-- `FRM[a]`, for `a` in 0..15 (R9, R22). -/
def State.frmByte (s : State) (a : Nat) : Byte := s.frm.toList.getD a 0

/-- The 16 bytes of FRM that `PutFrame` leaves (R150): length byte, opcode byte, payload, then zeros. -/
def frameBuffer (lenByte opByte : Byte) (payload : List Byte) : Vector Byte 16 :=
  Vector.ofFn fun i => (lenByte :: opByte :: payload).getD i.val 0

/-- `PutFrame(len_byte, op_byte, payload)` (R150): all 16 bytes of FRM, and `FLEN <- 2 + m`. -/
def State.putFrame (s : State) (lenByte opByte : Byte) (payload : List Byte) : State :=
  { s with frm := frameBuffer lenByte opByte payload, flen := BitVec.ofNat 5 (2 + payload.length) }

/-- The wire frame in the frame buffer: `FRM[0 .. FLEN-1]` (R22). -/
def State.frameBytes (s : State) : List Byte := s.frm.toList.take s.flen.toNat

/-- The counter as one 64-bit number `HIGH*2^32 + LOW` (R18, R137). -/
def State.counter (s : State) : BitVec 64 := s.high ++ s.low

end Sys2Proof.Machine
end

