-- ==== Sys2Proof/Machine/Operands.lean ====
section
/-! DEFINITION. The operands the engine's operations and port take: the register map (spec 10_state.md R24), what a
register reads as (R17, R20, R21, R22, R47), and which memory accesses are well formed (20_memory.md R50 to R52). -/

namespace Sys2Proof.Machine

/-- What `HIGH`, `LOW` or `CUR` reads as: its value once the counter is initialised, an unspecified value before
(R21, U9). -/
def State.counterRead (s : State) (index : Nat) (held : Word) : Word :=
  if s.cvalid then held else Config.uninitCounterRead s.resets index

/-- What `CUR` reads as: its value in bits 3:0, zeros in bits 31:4 (R20), the value unspecified before the counter is
initialised (R21). -/
def State.curRead (s : State) : Word :=
  ((s.counterRead 8 (s.cur.setWidth 32)).extractLsb' 0 4).setWidth 32

/-- The registers the host can read and what they read as (R24, R47); `none` where a read is an access fault (R49). -/
def State.regValue (s : State) (index : Nat) : Option Word :=
  match index with
  | 1 => some s.statusWord
  | 2 => some s.arg0
  | 3 => some s.arg1
  | 4 => some s.res
  | 5 => some (s.flen.setWidth 32)
  | 6 => some (s.counterRead 6 s.high)
  | 7 => some (s.counterRead 7 s.low)
  | 8 => some s.curRead
  | 12 => some s.k.k0
  | 13 => some s.k.k1
  | 14 => some s.k.k2
  | 15 => some s.k.k3
  | _ => none

/-- The registers the host can write as storage (R24, R48); `none` for `CMD`, which is not storage, and where a write is
an access fault (R49). -/
def State.setReg (s : State) (index : Nat) (v : Word) : Option State :=
  match index with
  | 2 => some { s with arg0 := v }
  | 3 => some { s with arg1 := v }
  | 12 => some { s with k := { s.k with k0 := v } }
  | 13 => some { s with k := { s.k with k1 := v } }
  | 14 => some { s with k := { s.k with k2 := v } }
  | 15 => some { s with k := { s.k with k3 := v } }
  | _ => none

/-- The number of bytes of a space: `4*NMAX` for BUF, 16 for FRM (R40). -/
def State.spaceBytes (s : State) : Space → Nat
  | .buf => s.cfg.bufBytes
  | .frm => 16

/-- A well-formed memory access (R50, R51): 1 byte anywhere in the space, or 4 bytes at a multiple of 4 wholly inside. -/
def State.accessOk (s : State) (space : Space) (addr n : Nat) : Bool :=
  (decide (n = 1) && decide (addr < s.spaceBytes space)) ||
  (decide (n = 4) && decide (addr % 4 = 0) && decide (addr + 4 ≤ s.spaceBytes space))

/-- What a well-formed read returns (R50). A 4-byte read of FRM is the written sum `FRM[addr] + 256*FRM[addr+1] + …`
for either byte order: R44 does not change it (assumption 10). -/
def State.memValue (s : State) (space : Space) (addr n : Nat) : Word :=
  match space with
  | .buf => if n = 1 then (s.bufByte addr).setWidth 32 else s.vecWord (addr / 4)
  | .frm =>
    if n = 1 then (s.frmByte addr).setWidth 32
    else wordOfBytes .little (s.frmByte addr) (s.frmByte (addr + 1)) (s.frmByte (addr + 2)) (s.frmByte (addr + 3))

/-- Whether a memory write is performed (R51, R52): only BUF can be written, and the value of a 1-byte write is a byte,
`0 ≤ v ≤ 255` (assumption 11). -/
def State.writeOk (s : State) (space : Space) (addr n : Nat) (v : Word) : Bool :=
  match space with
  | .buf => s.accessOk .buf addr n && (decide (n ≠ 1) || decide (v.toNat ≤ 255))
  | .frm => false

/-- The length check of `ENCB` and `DECB` (R105): a multiple of 4 and at least 8. -/
def payloadLengthOk (len : Nat) : Bool := decide (len % 4 = 0) && decide (8 ≤ len)

end Sys2Proof.Machine
end

