-- ==== Sys2Proof/Machine/Block.lean ====
section
/-! DEFINITION. The block operations `XFORM`, `ENCB`, `DECB` (spec 40_block_transform.md R100, R105, R106). -/

namespace Sys2Proof.Machine

/-- `Encode(VEC, n, K)` (R102). -/
def State.encodeVec (s : State) (n : Nat) : State := s.storeVec (Cipher.encode (s.loadVec n) n s.k)

/-- `Decode(VEC, n, K)` (R103). -/
def State.decodeVec (s : State) (n : Nat) : State := s.storeVec (Cipher.decode (s.loadVec n) n s.k)

/-- `XFORM n` (R100). -/
def execXform (n : Int) (s : State) : Result :=
  if 1 < n then
    if (s.cfg.nmax : Int) < n then .next (s.fail .vectorRange)
    else .next (s.encodeVec n.toNat).succeed
  else if n < -1 then
    if (s.cfg.nmax : Int) < -n then .next (s.fail .vectorRange)
    else .next (s.decodeVec (-n).toNat).succeed
  else .next (s.fail .degenerate)

/-- `ENCB len` (R105): the length check, then the range check, then the transform. -/
def execEncb (len : Nat) (s : State) : Result :=
  if !payloadLengthOk len then .next (s.fail .invalidPayloadLength)
  else if s.cfg.nmax < len / 4 then .next (s.fail .vectorRange)
  else .next (s.encodeVec (len / 4)).succeed

/-- `DECB len` (R106): the same checks, then the inverse transform. -/
def execDecb (len : Nat) (s : State) : Result :=
  if !payloadLengthOk len then .next (s.fail .invalidPayloadLength)
  else if s.cfg.nmax < len / 4 then .next (s.fail .vectorRange)
  else .next (s.decodeVec (len / 4)).succeed

end Sys2Proof.Machine
end

