-- ==== Sys2Proof/Machine/Counter.lean ====
section
/-! DEFINITION. The counter-mode stream unit: `CTRINIT0`, `CTRINIT`, `CTRREGEN`, `CTRNEXT`, `CTRXOR` and the procedures
`Regen` and `NextByte` (spec 41_counter_mode.md R130 to R136). -/

namespace Sys2Proof.Machine

/-- The keystream block of a counter value (R131): `Encode([high, low], 2, key)` as 8 bytes, word 0 first. -/
def keystreamBlock (o : ByteOrder) (key : Key) (high low : Word) : Vector Byte 8 :=
  let t := Cipher.encode [high, low] 2 key
  let bytes := bytesOfWords o t
  Vector.ofFn fun i => bytes.getD i.val 0

/-- `Regen()` (R131): KS from the counter before the increment, then the 64-bit increment, then `CUR <- 0`. -/
def State.regen (s : State) : State :=
  let s1 := { s with ks := keystreamBlock s.cfg.byteOrder s.cfg.keyCtr s.high s.low }
  let s2 :=
    if s.low = 0xFFFFFFFF#32 then { s1 with low := 0, high := add32 s.high 1 }
    else { s1 with low := s.low + 1 }
  { s2 with cur := 0 }

/-- `KS[CUR]` (R135). `CUR` is at most 7 here in every state a run reaches (R20; assumption 12). -/
def State.ksByte (s : State) : Byte := s.ks.toList.getD s.cur.toNat 0

/-- `NextByte()` (R135): regenerate first if `CUR = 8`; the byte at the cursor; the cursor plus 1. -/
def State.nextByte (s : State) : Byte × State :=
  let s1 := if s.cur = 8 then s.regen else s
  (s1.ksByte, { s1 with cur := s1.cur + 1 })

/-- Setting the counter to `(0, iv)` and regenerating (R132, R133), `CVALID <- 1`. -/
def State.initCounter (s : State) (iv : Word) : State :=
  { ({ s with high := 0, low := iv } : State).regen with cvalid := true }

/-- `for i = a, a+1, …` (`n` times, ascending): `BUF[i] <- BUF[i] ^ NextByte()` (R136). -/
def State.xorStream (s : State) (a : Nat) : Nat → State
  | 0 => s
  | n + 1 =>
    let t := s.nextByte
    State.xorStream (t.2.setBufByte a (t.2.bufByte a ^^^ t.1)) (a + 1) n

/-- `CTRINIT0` (R133): `ARG0` is not read; the IV is 0. -/
def execCtrinit0 (s : State) : Result := .next (s.initCounter 0).succeed

/-- `CTRINIT` (R132): the IV is `ARG0`. -/
def execCtrinit (s : State) : Result := .next (s.initCounter s.arg0).succeed

/-- `CTRREGEN` (R134). -/
def execCtrregen (s : State) : Result :=
  if !s.cvalid then .next (s.fail .ctrUninit) else .next s.regen.succeed

/-- `CTRNEXT` (R135): `RES <- zext(NextByte())`. -/
def execCtrnext (s : State) : Result :=
  if !s.cvalid then .next (s.fail .ctrUninit)
  else
    let t := s.nextByte
    .next ({ t.2 with res := t.1.setWidth 32 } : State).succeed

/-- `CTRXOR len` (R136): `CtrUninit` is checked before `VectorRange` (R214). -/
def execCtrxor (len : Nat) (s : State) : Result :=
  if !s.cvalid then .next (s.fail .ctrUninit)
  else if s.cfg.bufBytes < len then .next (s.fail .vectorRange)
  else .next (s.xorStream 0 len).succeed

end Sys2Proof.Machine
end

