-- ==== Sys2Proof/Machine/Frame.lean ====
section
/-! DEFINITION. The command-frame builder: `FRQRY`, `FRSTART`, `FRSTOP`, `FRMVU`, `FRMVD` (spec 42_command_frames.md R150
to R155). -/

namespace Sys2Proof.Machine

/-- The 12 payload bytes of a move frame (R154): `Encode([12345, x, y], 3, key)`, words in index order (R45). -/
def movePayload (o : ByteOrder) (key : Key) (x y : Word) : List Byte :=
  bytesOfWords o (Cipher.encode [Config.marker, x, y] 3 key)

/-- `MoveFrame(key)` (R154), without the `succeed` that ends it. -/
def State.moveFrame (s : State) (key : Key) : State :=
  s.putFrame 0x0D#8 0x40#8 (movePayload s.cfg.byteOrder key s.arg0 s.arg1)

/-- `FRQRY` (R151): the frame `04 14 00 00 00`. -/
def execFrqry (s : State) : Result := .next (s.putFrame 0x04#8 0x14#8 [0#8, 0#8, 0#8]).succeed

/-- `FRSTART` (R152): the frame `04 21 00 00 00`. -/
def execFrstart (s : State) : Result := .next (s.putFrame 0x04#8 0x21#8 [0#8, 0#8, 0#8]).succeed

/-- `FRSTOP` (R153): the frame `04 22 00 00 00`. -/
def execFrstop (s : State) : Result := .next (s.putFrame 0x04#8 0x22#8 [0#8, 0#8, 0#8]).succeed

/-- `FRMVU` (R154): the move frame under `KEY_PEN_UP`. -/
def execFrmvu (s : State) : Result := .next (s.moveFrame s.cfg.keyPenUp).succeed

/-- `FRMVD` (R155): the move frame under `KEY_PEN_DOWN`. -/
def execFrmvd (s : State) : Result := .next (s.moveFrame s.cfg.keyPenDown).succeed

end Sys2Proof.Machine
end

