-- ==== Sys2Proof/Machine/Link.lean ====
section
/-! DEFINITION. The TransportLink's capability contract (spec 44_host_protocol.md R171) and `sendFrame` (R178). -/

namespace Sys2Proof.Machine

/-- `listDevices() -> sequence of device handles`: "empty sequence signals no device" (R171). A handle is an index. -/
def Link.listDevices (l : Link) : List Nat := List.range l.devices

/-- `open(index)` (R171). It never fails, whatever the index: the spec gives only a failure to configure (R173;
assumption 23, DESIGN CHOICE). -/
def Link.openDevice (l : Link) (index : Nat) : Link := { l with handle := some index }

/-- `close()` (R171). -/
def Link.close (l : Link) : Link := { l with handle := none, settings := LinkSettings.unset }

/-- `setBaudRate(bitsPerSecond)` (R171); `none` where the setting fails (R182). -/
def Link.setBaudRate (l : Link) (bitsPerSecond : Nat) : Option Link :=
  if l.configures then some { l with settings := { l.settings with baud := some bitsPerSecond } } else none

/-- `setTimeouts(readMs, writeMs)` (R171); `none` where the setting fails (R182). -/
def Link.setTimeouts (l : Link) (readMs writeMs : Nat) : Option Link :=
  if l.configures then some { l with settings := { l.settings with timeouts := some (readMs, writeMs) } } else none

/-- `setDataFraming(bits, parity, stopBits)` (R171); `none` where the setting fails (R182). -/
def Link.setDataFraming (l : Link) (bits parity stopBits : Nat) : Option Link :=
  if l.configures then some { l with settings := { l.settings with framing := some ⟨bits, parity, stopBits⟩ } } else none

/-- The settings `connect()` makes (R173): baud rate, timeouts, 8-bits-no-parity-one-stop. The numbers the spec does not
give are free (R171; assumption 14). `none` where one of them fails. -/
def Link.configure (l : Link) : Option Link :=
  (l.setBaudRate Config.baudRate).bind fun l1 =>
    (l1.setTimeouts Config.linkTimeouts.1 Config.linkTimeouts.2).bind fun l2 => l2.setDataFraming 8 0 1

/-- `bufferedReadCount()` (R171). -/
def Link.bufferedReadCount (l : Link) : Nat := l.rx.length

/-- `read(count) -> bytes` (R171): the oldest `count` buffered bytes, which are no longer buffered. Asked for more than are
buffered it gives those there are (assumption 20, DESIGN CHOICE); the host asks for as many as are (R179). -/
def Link.read (l : Link) (count : Nat) : List Byte × Link :=
  (l.rx.take count, { l with rx := l.rx.drop count })

/-- Whether the link takes one more byte: it is open and its outside accepts one (R178; assumption 8). -/
def Link.takes (l : Link) : Bool :=
  l.handle.isSome && decide (l.accepts ≠ some 0)

/-- The link after it took one byte. -/
def Link.writeByte (l : Link) (b : Byte) : Link :=
  { l with tx := l.tx ++ [b], accepts := l.accepts.map (· - 1) }

/-- `write(bytes)` (R171): a frame's bytes "one unit at a time" (R178), in frame order; the flag is false if a link error stopped it. -/
def Link.writeBytes (l : Link) : List Byte → Link × Bool
  | [] => (l, true)
  | b :: bs => if l.takes then Link.writeBytes (l.writeByte b) bs else (l, false)

/-- `sendFrame(frame)` (R178): the bytes go to the link; "never fails except by propagating a link error". No engine
state changes (R170). -/
def State.sendFrame (s : State) (frame : List Byte) : State :=
  let t := s.link.writeBytes frame
  { s with link := t.1, callResult := if t.2 then .written else .linkError }

end Sys2Proof.Machine
end

