-- ==== Sys2Proof/Machine/Wire.lean ====
section
/-! DEFINITION. The five wire frames of R74 as they go to the plotter: each is its bytes, written to the link in frame
order (R178), and no engine state changes (R170). What the plotter does with a frame is not in the spec (N25). -/

namespace Sys2Proof.Machine

/-- The frame "query mat-loaded", `04 14 00 00 00` (R74, R175). -/
def execWireQueryMatLoaded (s : State) : Result := .next (s.sendFrame [0x04#8, 0x14#8, 0x00#8, 0x00#8, 0x00#8])

/-- The frame "start cut", `04 21 00 00 00` (R74, R176). -/
def execWireStartCut (s : State) : Result := .next (s.sendFrame [0x04#8, 0x21#8, 0x00#8, 0x00#8, 0x00#8])

/-- The frame "stop cut", `04 22 00 00 00` (R74, R176). -/
def execWireStopCut (s : State) : Result := .next (s.sendFrame [0x04#8, 0x22#8, 0x00#8, 0x00#8, 0x00#8])

/-- The frame "move pen up", `0D 40` and its payload (R74, R177). -/
def execWireMovePenUp (payload : List Byte) (s : State) : Result :=
  .next (s.sendFrame (0x0D#8 :: 0x40#8 :: payload))

/-- The frame "move pen down", `0D 40` and its payload (R74, R177). -/
def execWireMovePenDown (payload : List Byte) (s : State) : Result :=
  .next (s.sendFrame (0x0D#8 :: 0x40#8 :: payload))

end Sys2Proof.Machine
end

