-- ==== Sys2Proof/Machine/Dispatch.lean ====
section
/-! DEFINITION. One arm per instruction. -/

namespace Sys2Proof.Machine

def exec (i : Instr) (s : State) : Host.Outcome State Fault Refusal :=
  match i with
  | .xform n => Sys2Proof.Machine.execXform n s
  | .encb len => Sys2Proof.Machine.execEncb len s
  | .decb len => Sys2Proof.Machine.execDecb len s
  | .ctrinit0 => Sys2Proof.Machine.execCtrinit0 s
  | .ctrinit => Sys2Proof.Machine.execCtrinit s
  | .ctrregen => Sys2Proof.Machine.execCtrregen s
  | .ctrnext => Sys2Proof.Machine.execCtrnext s
  | .ctrxor len => Sys2Proof.Machine.execCtrxor len s
  | .frqry => Sys2Proof.Machine.execFrqry s
  | .frstart => Sys2Proof.Machine.execFrstart s
  | .frstop => Sys2Proof.Machine.execFrstop s
  | .frmvu => Sys2Proof.Machine.execFrmvu s
  | .frmvd => Sys2Proof.Machine.execFrmvd s
  | .wireQueryMatLoaded => Sys2Proof.Machine.execWireQueryMatLoaded s
  | .wireStartCut => Sys2Proof.Machine.execWireStartCut s
  | .wireStopCut => Sys2Proof.Machine.execWireStopCut s
  | .wireMovePenUp payload => Sys2Proof.Machine.execWireMovePenUp payload s
  | .wireMovePenDown payload => Sys2Proof.Machine.execWireMovePenDown payload s

end Sys2Proof.Machine
end

