-- ==== Sys2Proof/Machine/Port.lean ====
section
/-! DEFINITION. The host port: register accesses (spec 20_memory.md R47 to R49), buffer accesses (R50 to R52), the issue
of an operation (R46, R48, R70), and the reset event (70_reset_and_hazards.md R220). -/

namespace Sys2Proof.Machine

/-- Issuing an operation, `RegWrite(0, v)` (R48): the word is decoded and its operation performed, or it is illegal and
`IllegalOp` is reported (R73, R210). -/
def issue (v : Word) (s : State) : Result :=
  match decode v with
  | .ok i => exec i s
  | .error _ => .next (s.fail .illegalOp)

/-- A faulting read (R49, R52): `AccessFault`, and the value returned is unspecified: the next free draw (U10). -/
def State.faultingRead (s : State) : State :=
  { s.fail .accessFault with reply := .data (Config.faultReadData s.faultReads), faultReads := s.faultReads + 1 }

/-- A faulting write (R49, R52): `AccessFault`, and the write is discarded. -/
def State.faultingWrite (s : State) : State :=
  { s.fail .accessFault with reply := .none }

/-- A read that returns `v` and changes no state of the engine (R47, R50). -/
def State.answer (s : State) (v : Word) : State := { s with reply := .data v }

/-- A write completes and returns no data. -/
def State.noData (s : State) : State := { s with reply := .none }

/-- `RegRead(i)` (R47, R49): a whole 32-bit access to a readable register, or an access fault. -/
def regRead (index width : Nat) (s : State) : State :=
  if width ≠ 32 then s.faultingRead
  else match s.regValue index with
    | some v => s.answer v
    | none => s.faultingRead

/-- `RegWrite(i, v)` (R48, R49). A `CMD` write of the wrong width is an access fault and is not decoded (R214). -/
def regWrite (index width : Nat) (v : Word) (s : State) : Result :=
  if width ≠ 32 then .next s.faultingWrite
  else if index = 0 then issue v s.noData
  else match s.setReg index v with
    | some t => .next t.noData
    | none => .next s.faultingWrite

/-- `MemRead(space, addr, n)` (R50, R52). -/
def memRead (space : Space) (addr n : Nat) (s : State) : State :=
  if s.accessOk space addr n then s.answer (s.memValue space addr n) else s.faultingRead

/-- `MemWrite(space, addr, n, v)` (R51, R52). -/
def memWrite (space : Space) (addr n : Nat) (v : Word) (s : State) : State :=
  if s.writeOk space addr n v then
    if n = 1 then (s.setBufByte addr (v.setWidth 8)).noData
    else (s.setVecWord (addr / 4) v).noData
  else s.faultingWrite

/-- The reset event (R220): `STATUS`, `RES`, `FLEN`, `FRM` become 0; `VEC`, `K`, `ARG0`, `ARG1`, `HIGH`, `LOW`, `CUR`,
`KS` take fresh free values; the configuration (R221), the agenda and the environment stay. -/
def State.resetEvent (s : State) : State :=
  let r := s.resets
  { s with
    buf := Memory.ofBytes (Config.resetByte r) s.cfg.bufBytes
    k := ⟨Config.resetWord r 12, Config.resetWord r 13, Config.resetWord r 14, Config.resetWord r 15⟩
    arg0 := Config.resetWord r 2
    arg1 := Config.resetWord r 3
    res := 0
    code := .ok
    fault := false
    cvalid := false
    high := Config.resetWord r 6
    low := Config.resetWord r 7
    ks := Vector.ofFn fun i => Config.resetKs r i.val
    cur := (Config.resetWord r 8).setWidth 4
    frm := Vector.replicate 16 0
    flen := 0
    reply := .none
    resets := r + 1 }

/-- One host action is one atomic transition of the engine (R5, R46, R54). -/
def hostAction (a : HostAction) (s : State) : Result :=
  match a with
  | .regRead index width => .next (regRead index width s)
  | .regWrite index width v => regWrite index width v s
  | .memRead space addr n => .next (memRead space addr n s)
  | .memWrite space addr n v => .next (memWrite space addr n v s)
  | .reset => .next s.resetEvent

/-- Host actions in the order the host performs them (R54), stopping where one has no meaning. -/
def hostActions : List HostAction → State → Result
  | [], s => .next s
  | a :: as, s =>
    match hostAction a s with
    | .next t => hostActions as t
    | .fault f => .fault f
    | .refused r => .refused r

end Sys2Proof.Machine
end

