-- ==== Sys2Proof/Machine/Client.lean ====
section
/-! DEFINITION. The environment: ProtocolClient, the engine's host software (spec 44_host_protocol.md R172 to R182). Its
waits are waits for `received` and `deadline` events. -/

namespace Sys2Proof.Machine

/-- How many reply bytes a wait is for (R175, R177, R179). -/
def Pending.expected : Pending → Nat
  | .query => 5
  | .move => 5
  | .reply n => n

/-- Whether the poll of the buffered-byte count ends the wait before its deadline (R179). At exactly the expected count
it does; above it the spec does not say (N26). -/
def pollSatisfied (count expected : Nat) : Bool :=
  decide (count = expected) || (decide (expected < count) && Config.pollTakesMore)

/-- The answer a host call makes of its reply (R175, R177, R179). -/
def replyResult (p : Pending) (bytes : List Byte) : CallResult :=
  match p with
  | .query => .matLoaded (decide (bytes.length = 5) && decide (bytes.getD 4 0 = 1))
  | .move => .moved (decide (bytes.length = 5))
  | .reply _ => .replyBytes bytes

/-- The end of a wait (R179): more than one buffered byte is read, all of them; otherwise the reply is empty and a
single byte stays buffered. -/
def State.endWait (s : State) (p : Pending) : State :=
  if 1 < s.link.bufferedReadCount then
    let r := s.link.read s.link.bufferedReadCount
    { s with phase := .connected, callResult := replyResult p r.1, link := r.2 }
  else { s with phase := .connected, callResult := replyResult p [] }

/-- One poll of a wait (R179). -/
def State.poll (s : State) (p : Pending) : State :=
  if pollSatisfied s.link.bufferedReadCount p.expected then s.endWait p
  else { s with phase := .awaiting p }

/-- What a host call does once its frame is written: nothing more, or a wait for a reply (R175 to R177), which polls at
once (assumption 17). A link error is propagated and no reply awaited (R178; assumption 8). -/
def State.afterSend (s : State) (p : Option Pending) : State :=
  match p with
  | none => s
  | some q => if s.callResult = .written then s.poll q else s

/-- Building a frame with the engine, reading it out of `FLEN` and `FRM`, and sending it (R175 to R177). All of a call's
accesses are one step, so no reset event (R220) falls between them (assumption 25, DESIGN CHOICE). -/
def buildAndSend (build : List HostAction) (frameLen : Nat) (p : Option Pending) (s : State) : Result :=
  let reads := (List.range frameLen).map fun i => HostAction.memRead .frm i 1
  match hostActions (build ++ HostAction.regRead 5 32 :: reads) s with
  | .next t => .next ((t.sendFrame t.frameBytes).afterSend p)
  | .fault f => .fault f
  | .refused r => .refused r

/-- `connect()` while disconnected (R173): the first of the listed devices is opened and configured. A link whose
configuring fails is left closed (assumption 8). -/
def State.connect (s : State) : State :=
  match s.link.listDevices with
  | [] => { s with callResult := .noDevice }
  | first :: _ =>
    match (s.link.openDevice first).configure with
    | some l => { s with link := l, phase := .connected, callResult := .connected }
    | none => { s with link := (s.link.openDevice first).close, callResult := .linkConfigurationError }

/-- `disconnect()` while connected (R174). -/
def State.disconnect (s : State) : State :=
  { s with link := s.link.close, phase := .disconnected, callResult := .disconnected }

/-- A host call while connected (R174 to R179). -/
def connectedCall (c : ClientCall) (s : State) : Result :=
  match c with
  | .connect => .refused (.callOutsideProtocol c)
  | .disconnect => .next s.disconnect
  | .queryMatLoaded => buildAndSend (Asm.expand (.op .frqry)) 5 (some .query) s
  | .start => buildAndSend (Asm.expand (.op .frstart)) 5 none s
  | .stop => buildAndSend (Asm.expand (.op .frstop)) 5 none s
  | .movePenUp x y => buildAndSend (Asm.expand (.mvu x y)) 14 (some .move) s
  | .movePenDown x y => buildAndSend (Asm.expand (.mvd x y)) 14 (some .move) s
  | .awaitReply n => .next (s.poll (.reply n))

/-- A host call while disconnected: `connect` (R173), and `disconnect`, which is a no-op (R174). That the call result then
stays the previous call's is the model's choice (assumption 22, DESIGN CHOICE). -/
def disconnectedCall (c : ClientCall) (s : State) : Result :=
  match c with
  | .connect => .next s.connect
  | .disconnect => .next s
  | .queryMatLoaded => .refused (.callOutsideProtocol c)
  | .start => .refused (.callOutsideProtocol c)
  | .stop => .refused (.callOutsideProtocol c)
  | .movePenUp _ _ => .refused (.callOutsideProtocol c)
  | .movePenDown _ _ => .refused (.callOutsideProtocol c)
  | .awaitReply _ => .refused (.callOutsideProtocol c)

/-- A host call (R172). No step makes one while a reply is awaited: the caller is blocked (R181, `State.takeEvent`). -/
def clientCall (c : ClientCall) (s : State) : Result :=
  match s.phase with
  | .connected => connectedCall c s
  | .disconnected => disconnectedCall c s
  | .awaiting _ => .refused (.callOutsideProtocol c)

/-- Bytes arrive (R171); a wait polls again (R179). Bytes that arrive while the link is closed, on which the spec is
silent, are buffered too (assumption 19, DESIGN CHOICE). -/
def State.receive (s : State) (bytes : List Byte) : State :=
  let t : State := { s with link := { s.link with rx := s.link.rx ++ bytes } }
  match s.phase with
  | .awaiting p => t.poll p
  | .connected => t
  | .disconnected => t

/-- The deadline elapses: a wait ends with whatever is buffered (R179); otherwise nothing waits for it. -/
def State.deadlineElapses (s : State) : State :=
  match s.phase with
  | .awaiting p => s.endWait p
  | .connected => s
  | .disconnected => s

/-- Putting a frame on the link: the frame its bytes are is sent (R74, R178). -/
def sendWire (frame : List Byte) (s : State) : Result :=
  match decodeWire s.cfg frame with
  | .ok i => exec i s
  | .error _ => .refused .notAWireFrame

/-- What one event does. A `linkIs` event leaves an open link open, also when its device is no longer listed
(assumption 24, DESIGN CHOICE). -/
def runEvent (e : Event) (s : State) : Result :=
  match e with
  | .port a => hostAction a s
  | .wire frame => sendWire frame s
  | .call c => clientCall c s
  | .received bytes => .next (s.receive bytes)
  | .deadline => .next s.deadlineElapses
  | .linkIs d c a => .next { s with link := { s.link with devices := d, configures := c, accepts := a } }

/-- Whether an event is the outside's and not something the host software does: bytes that arrive, a deadline that
elapses, the link's outside, and the reset event, which "the host (or the platform) causes" (R220; assumption 21). -/
def fromOutside : Event → Bool
  | .received _ => true
  | .deadline => true
  | .linkIs _ _ _ => true
  | .port .reset => true
  | .port (.regRead _ _) => false
  | .port (.regWrite _ _ _) => false
  | .port (.memRead _ _ _) => false
  | .port (.memWrite _ _ _ _) => false
  | .wire _ => false
  | .call _ => false

/-- Whether the host is blocked in a wait for a reply: "the command/reply cycle blocks the caller" (R181). -/
def Phase.blocksHost : Phase → Bool
  | .awaiting _ => true
  | .connected => false
  | .disconnected => false

/-- The phase in which the host is free to act, with the least change: a wait is over. -/
def Phase.released : Phase → Phase
  | .awaiting _ => .connected
  | .connected => .connected
  | .disconnected => .disconnected

/-- The first of the outside's events, and the others in their order. -/
def takeOutside : List Event → Option (Event × List Event)
  | [] => none
  | e :: es => if fromOutside e then some (e, es) else (takeOutside es).map fun r => (r.1, e :: r.2)

/-- The next event and the state without it: where the machine's next instruction comes from (assumption 2). While the host
waits for a reply it does nothing else (R181), so only the outside acts, and the host's next acts stay for after the wait
(assumption 21). -/
def State.takeEvent (s : State) : Option (Event × State) :=
  if s.phase.blocksHost then (takeOutside s.agenda).map fun r => (r.1, { s with agenda := r.2 })
  else
    match s.agenda with
    | [] => none
    | e :: rest => some (e, { s with agenda := rest })

/-- The event that carries an encoding into the machine: a write to `CMD` (R46), or a frame put on the link (R178). -/
def Encoding.event : Encoding → Event
  | .cmd w => .port (.regWrite 0 32 w)
  | .frame bytes => .wire bytes

end Sys2Proof.Machine
end

