-- ==== Sys2Proof/Machine/Step.lean ====
section
/-! DEFINITION. One step: the next thing on the agenda happens. -/

namespace Sys2Proof.Machine

/-- One step. With nothing on the agenda the machine is quiescent: "it never acts on its own" (R10, R230); and a host that
waits for a reply goes on waiting until the outside acts (R181). -/
def step (s : State) : Host.Outcome State Fault Refusal :=
  match s.takeEvent with
  | none => .next s
  | some (e, t) => runEvent e t

/-- The state whose very next step runs the instruction of a table row's bits: the host, free to act, is about to write the
command word to `CMD`, or to put the frame on the link (assumption 2). -/
def State.withFetchWord (s : State) (nbits w : Nat) : State :=
  { s with agenda := (Encoding.event (tableEncoding nbits w)) :: s.agenda, phase := s.phase.released }

end Sys2Proof.Machine
end

