-- ==== Sys2Proof/Safety.lean ====
section
/-! DEFINITION. What a good state of the machine is, and the words claims are stated in: the machine's invariant and its
parts, a run without a recorded fault, and the keystream as a sequence. -/

namespace Sys2Proof

/-- One row of the operation table R72: a word selects the row's operation when `(word & mask) = match`. -/
structure CmdRow where
  pattern : Word
  mask : Word
  /-- The operation with the operand its immediate assembles to (R71). -/
  make : BitVec 16 → Instr

/-- The 13 rows of R72, in the table's order. -/
def cmdTable : List CmdRow :=
  [ ⟨0x00000001#32, 0xFF0000FF#32, fun imm => .xform imm.toInt⟩,
    ⟨0x00000002#32, 0xFF0000FF#32, fun imm => .encb imm.toNat⟩,
    ⟨0x00000003#32, 0xFF0000FF#32, fun imm => .decb imm.toNat⟩,
    ⟨0x00000010#32, 0xFFFFFFFF#32, fun _ => .ctrinit0⟩,
    ⟨0x00000011#32, 0xFFFFFFFF#32, fun _ => .ctrinit⟩,
    ⟨0x00000012#32, 0xFFFFFFFF#32, fun _ => .ctrregen⟩,
    ⟨0x00000013#32, 0xFFFFFFFF#32, fun _ => .ctrnext⟩,
    ⟨0x00000014#32, 0xFF0000FF#32, fun imm => .ctrxor imm.toNat⟩,
    ⟨0x00000030#32, 0xFFFFFFFF#32, fun _ => .frqry⟩,
    ⟨0x00000031#32, 0xFFFFFFFF#32, fun _ => .frstart⟩,
    ⟨0x00000032#32, 0xFFFFFFFF#32, fun _ => .frstop⟩,
    ⟨0x00000033#32, 0xFFFFFFFF#32, fun _ => .frmvu⟩,
    ⟨0x00000034#32, 0xFFFFFFFF#32, fun _ => .frmvd⟩ ]

/-- The instructions of the block-transform unit (R72: `transform`, `encryptBlock`, `decryptBlock`). -/
def Instr.isBlockOp : Instr → Bool
  | .xform _ | .encb _ | .decb _ => true
  | _ => false

/-- The instructions of the counter-mode unit (R72). -/
def Instr.isCounterOp : Instr → Bool
  | .ctrinit0 | .ctrinit | .ctrregen | .ctrnext | .ctrxor _ => true
  | _ => false

/-- The instructions of the frame builder (R72). -/
def Instr.isFrameOp : Instr → Bool
  | .frqry | .frstart | .frstop | .frmvu | .frmvd => true
  | _ => false

/-- The instructions that read and write BUF (R13, R53). -/
def Instr.usesBuf : Instr → Bool
  | .xform _ | .encb _ | .decb _ | .ctrxor _ => true
  | _ => false

/-- The instructions that set `CVALID` (R17). -/
def Instr.initsCounter : Instr → Bool
  | .ctrinit0 | .ctrinit => true
  | _ => false

namespace Machine

/-- The indices of the registers the host can read (R47). -/
def readableRegs : List Nat := [1, 2, 3, 4, 5, 6, 7, 8, 12, 13, 14, 15]

/-- The indices of the registers the host can write (R48). -/
def writableRegs : List Nat := [0, 2, 3, 12, 13, 14, 15]

/-- BUF is in canonical form and lists no address at or above `4*NMAX` (R13, R40). -/
def State.bufOk (s : State) : Bool :=
  Memory.wf s.buf && s.buf.all (fun c => decide (c.1 < s.cfg.bufBytes))

/-- `CODE` is a code the engine produces (R200: 3 never is), and a fatal one has set `FAULT` (R201). -/
def State.statusOk (s : State) : Bool :=
  decide (s.code ≠ .invalidKeyLength) && (!s.code.fatal || s.fault)

/-- `RES[31:8] = 0` always (R16). -/
def State.resOk (s : State) : Bool := decide (s.res.toNat ≤ 255)

/-- While `CVALID = 1`, `0 ≤ CUR ≤ 8` (R20). -/
def State.curOk (s : State) : Bool := !s.cvalid || decide (s.cur.toNat ≤ 8)

/-- No frame built: `FLEN = 0` and FRM all zero (R22). -/
def State.noFrame (s : State) : Bool :=
  decide (s.flen = 0) && s.frm.toList.all (fun b => decide (b = 0))

/-- FRM holds one of the frames of R74, whole, with zeros after it, and `FLEN` is its length (R22, R150, R227). -/
def State.oneFrame (s : State) : Bool :=
  (match decodeWire s.cfg s.frameBytes with
    | .ok _ => true
    | .error _ => false) &&
  decide (s.frameBytes.length = s.flen.toNat) &&
  (s.frm.toList.drop s.flen.toNat).all (fun b => decide (b = 0))

/-- The frame buffer is as R22 says: no frame, or exactly one. -/
def State.frameOk (s : State) : Bool := s.noFrame || s.oneFrame

/-- The machine's invariant. -/
def State.inv (s : State) : Bool :=
  s.cfg.wf && s.bufOk && s.statusOk && s.resOk && s.curOk && s.frameOk

/-- "No fault recorded", the premise R228 gives a claim about a run. -/
def State.noFaultRecorded (s : State) : Bool := !s.fault

/-- The host performs no further action: the end of a run (R230). -/
def State.quiescent (s : State) : Bool := decide (s.agenda = [])

/-- `n` keystream bytes, taken one after the other by `NextByte()` (R135), and the state they leave. -/
def State.takeBytes (s : State) : Nat → List Byte × State
  | 0 => ([], s)
  | n + 1 =>
    let t := s.nextByte
    let r := State.takeBytes t.2 n
    (t.1 :: r.1, r.2)

/-- Byte `j` of the keystream of the 64-bit initial counter `v`, in the closed form of R137: byte `j mod 8` of the block
of counter `(v + floor(j/8)) mod 2^64`. -/
def streamByte (c : Config) (v : BitVec 64) (j : Nat) : Byte :=
  let n := v + BitVec.ofNat 64 (j / 8)
  (keystreamBlock c.byteOrder c.keyCtr (n.extractLsb' 32 32) (n.extractLsb' 0 32)).toList.getD (j % 8) 0

end Machine

end Sys2Proof
end

