-- ==== Sys2Proof/Certificates/Slice0/Obligations.lean ====
section
/-! DEFINITION. The statements for the provers. Each docstring names the rule of spec/ it formalises, or says that it is
the model's choice. Frames are written `t = { s with f := …, … }`: every field not named keeps its value. -/

open Sys2Proof Sys2Proof.Machine

/-! ## Encoding -/

/-- Every command word decodes to the instruction it was written for (R70, R71, R72, R75). -/
def Obligations.CommandEncodeThenDecode : Prop :=
  ∀ i : Instr, i.isCommand = true → i.wf = true → decode (commandWord i) = .ok i

/-- A word that decodes is the encoding of what it decodes to, so no bit is dropped (R70, R71, R73). -/
def Obligations.CommandDecodeThenEncode : Prop :=
  ∀ (w : Word) (i : Instr), decode w = .ok i → commandWord i = w ∧ i.wf = true ∧ i.isCommand = true

/-- The bytes of every wire frame decode to it, a move frame under the key its payload shows (assumption 9); and bytes
that decode are the bytes of the frame they decode to, 5 or 14 of them, the first counting the bytes after it (R74). -/
def Obligations.FrameCodingRoundTrip : Prop :=
  (∀ (c : Config) (i : Instr), i.isCommand = false → i.wf = true →
    (∀ p, i = .wireMovePenUp p ∨ i = .wireMovePenDown p → Sys2Proof.moveFrame c p = i) →
    decodeEncoding c (encode i) = .ok i) ∧
  (∀ (c : Config) (bs : List Byte) (i : Instr), decodeWire c bs = .ok i →
    encode i = .frame bs ∧ i.wf = true ∧ i.isCommand = false ∧
    (bs.length = 5 ∨ bs.length = 14) ∧ bs.length = (bs.getD 0 0).toNat + 1)

/-- The decoder is the table of R72. -/
def Obligations.DecodeFollowsTheTable : Prop :=
  ∀ w : Word,
    (∀ row ∈ cmdTable, w &&& row.mask = row.pattern → decode w = .ok (row.make (immField w))) ∧
    ((∀ row ∈ cmdTable, w &&& row.mask ≠ row.pattern) → ∃ why, decode w = .error why)

/-- A few words written out from R72 and R74 (a sanity statement). -/
def Obligations.SampleWordsDecode : Prop :=
  decode 0x00000A01#32 = .ok (.xform 10) ∧ decode 0x00FFF601#32 = .ok (.xform (-10)) ∧
  decode 0x00000802#32 = .ok (.encb 8) ∧ decode 0x00000C03#32 = .ok (.decb 12) ∧
  decode 0x00000010#32 = .ok .ctrinit0 ∧ decode 0x00001414#32 = .ok (.ctrxor 20) ∧
  decode 0x00000033#32 = .ok .frmvu ∧ decode 0x01000201#32 = .error .nonzeroZ ∧
  decode 0x00000130#32 = .error .nonzeroImm ∧ decode 0x00000000#32 = .error .reservedOp

/-! ## The step -/

/-- A write to `CMD` runs the operation its word decodes to; a frame put on the link runs the frame its bytes decode to.
The step takes the event off the agenda (assumption 2), and a register write answers with no data. A host that waits for a
reply is blocked (R181, assumption 21): the step is then the outside's first event, the host's own events staying where they are, and
with none of the outside's the wait goes on. -/
def Obligations.StepRunsTheDecodedInstruction : Prop :=
  (∀ (s : State) (v : Word) (rest : List Event) (i : Instr), (∀ p, s.phase ≠ .awaiting p) →
    s.agenda = .port (.regWrite 0 32 v) :: rest → decode v = .ok i →
    step s = exec i { s with agenda := rest, reply := .none }) ∧
  (∀ (s : State) (bs : List Byte) (rest : List Event) (i : Instr), (∀ p, s.phase ≠ .awaiting p) →
    s.agenda = .wire bs :: rest → decodeWire s.cfg bs = .ok i →
    step s = exec i { s with agenda := rest }) ∧
  (∀ (s : State) (p : Pending) (own : List Event) (e : Event) (rest : List Event), s.phase = .awaiting p →
    s.agenda = own ++ e :: rest → (∀ o ∈ own, fromOutside o = false) → fromOutside e = true →
    step s = runEvent e { s with agenda := own ++ rest }) ∧
  (∀ (s : State) (p : Pending), s.phase = .awaiting p → (∀ o ∈ s.agenda, fromOutside o = false) → step s = .next s)

/-- An illegal command word performs no operation and reports `IllegalOp` (R73, R210), whenever the host is free to write
it (R181). -/
def Obligations.IllegalWordReportsIllegalOp : Prop :=
  ∀ (s : State) (v : Word) (rest : List Event), (∀ p, s.phase ≠ .awaiting p) →
    s.agenda = .port (.regWrite 0 32 v) :: rest → (∀ row ∈ cmdTable, v &&& row.mask ≠ row.pattern) →
    step s = .next { s with agenda := rest, reply := .none, code := .illegalOp, fault := true }

/-- Every host action on the port has a next state: "the engine cannot hang and has no stuck state" (R230); with nothing
on the agenda a step changes nothing: the engine "never acts on its own" (R10). Two events alone are refused, both of the
host software and by the model's choice (assumption 7): a call in a phase that R172 gives it no place in, and bytes put on
the link that are no frame of R74. Every other event has a next state. -/
def Obligations.EngineNeverStopsNorActsAlone : Prop :=
  (∀ (a : HostAction) (s : State), ∃ t, hostAction a s = .next t) ∧
  (∀ s : State, s.quiescent = true → step s = .next s) ∧
  (∀ s : State, s.takeEvent = none → step s = .next s) ∧
  (∀ (s u : State) (e : Event), s.takeEvent = some (e, u) →
    let misplaced := fun c : ClientCall =>
      (s.phase = .disconnected ∧ c ≠ .connect ∧ c ≠ .disconnect) ∨ (s.phase = .connected ∧ c = .connect)
    (∀ c, e = .call c → misplaced c → step s = .refused (.callOutsideProtocol c)) ∧
    (∀ bs, e = .wire bs → (∀ i, decodeWire s.cfg bs ≠ .ok i) → step s = .refused .notAWireFrame) ∧
    ((∀ c, e = .call c → ¬ misplaced c) → (∀ bs, e = .wire bs → ∃ i, decodeWire s.cfg bs = .ok i) →
      ∃ t, step s = .next t))

/-! ## Invariants and whole-machine rules -/

/-- Every step keeps the machine's invariant (R13, R16, R20, R22, R200, R227). -/
def Obligations.StepKeepsTheInvariant : Prop :=
  ∀ s t : State, s.inv = true → step s = .next t → t.inv = true

/-- The invariant holds after reset. It rests partly on values the model chose: the zeros of assumptions 3 and 4 and the
configuration of assumption 1. -/
def Obligations.ResetHasTheInvariant : Prop := State.reset.inv = true

/-- The configuration never changes, across the reset event too (R11, R221). -/
def Obligations.StepKeepsTheConfiguration : Prop :=
  ∀ s t : State, step s = .next t → t.cfg = s.cfg

/-- `FAULT` is sticky until reset, and blocks nothing: every action but reset, and but reading `STATUS` itself, does with
`FAULT = 1` exactly what it does with `FAULT = 0` (R202). -/
def Obligations.FaultIsStickyAndBlocksNothing : Prop :=
  (∀ (s t u : State) (e : Event), s.takeEvent = some (e, u) → e ≠ .port .reset → s.fault = true →
    step s = .next t → t.fault = true) ∧
  (∀ (a : HostAction) (s t : State), a ≠ .reset → (∀ width, a ≠ .regRead 1 width) →
    hostAction a { s with fault := false } = .next t →
    hostAction a { s with fault := true } = .next { t with fault := true })

/-- `CVALID` is set only by `CTRINIT` and `CTRINIT0` and cleared only by reset (R17). -/
def Obligations.CvalidSetByInitClearedByReset : Prop :=
  ∀ (s t u : State) (e : Event), s.takeEvent = some (e, u) → step s = .next t →
    (s.cvalid = false → t.cvalid = true →
      ∃ v i, e = .port (.regWrite 0 32 v) ∧ decode v = .ok i ∧ i.initsCounter = true) ∧
    (s.cvalid = true → t.cvalid = false → e = .port .reset)

/-- What no instruction of each unit ever touches: no operation writes `K`, `ARG0`, `ARG1` or the configuration (R11, R14,
R15); only `CTRNEXT` writes `RES` (R16); only the counter unit writes `HIGH`, `LOW`, `KS`, `CUR`, `CVALID` (R18 to R20);
only the frame builder writes FRM and `FLEN` (R22); only `XFORM`, `ENCB`, `DECB`, `CTRXOR` change a byte of BUF (R13, R23);
an operation leaves the link alone and a wire frame leaves the engine alone (R170). -/
def Obligations.InstructionsWriteOnlyTheirUnit : Prop :=
  ∀ (i : Instr) (s t : State), exec i s = .next t →
    (t.cfg = s.cfg ∧ t.k = s.k ∧ t.arg0 = s.arg0 ∧ t.arg1 = s.arg1 ∧ t.reply = s.reply ∧ t.agenda = s.agenda ∧
      t.faultReads = s.faultReads ∧ t.resets = s.resets ∧ t.phase = s.phase) ∧
    (i ≠ .ctrnext → t.res = s.res) ∧
    (i.isCounterOp = false →
      t.high = s.high ∧ t.low = s.low ∧ t.ks = s.ks ∧ t.cur = s.cur ∧ t.cvalid = s.cvalid) ∧
    (i.isFrameOp = false → t.frm = s.frm ∧ t.flen = s.flen) ∧
    (i.usesBuf = false → ∀ a, t.bufByte a = s.bufByte a) ∧
    (i.isCommand = true → t.link = s.link ∧ t.callResult = s.callResult) ∧
    (i.isCommand = false → t = { s with link := t.link, callResult := t.callResult })

/-! ## Status and failures -/

/-- `STATUS` as a number: `CODE` in 3:0, `FAULT` bit 8, `CVALID` bit 9, every other bit 0 (R17); the numbers of the result
codes and which of them are fatal (R200). -/
def Obligations.StatusWordFields : Prop :=
  (∀ s : State, s.statusWord.toNat =
    s.code.value.toNat + (if s.fault then 256 else 0) + (if s.cvalid then 512 else 0)) ∧
  ResultCode.ok.value = 0 ∧ ResultCode.degenerate.value = 1 ∧ ResultCode.invalidPayloadLength.value = 2 ∧
  ResultCode.invalidKeyLength.value = 3 ∧ ResultCode.vectorRange.value = 4 ∧ ResultCode.ctrUninit.value = 5 ∧
  ResultCode.illegalOp.value = 6 ∧ ResultCode.accessFault.value = 7 ∧
  (∀ c : ResultCode, c.fatal = false ↔ c = .ok ∨ c = .degenerate)

/-- Failures are precise (R201): a failing operation, illegal word or faulting access changes `STATUS` only (the reply
and the model's draw counter apart). -/
def Obligations.FailuresArePrecise : Prop :=
  (∀ (i : Instr) (s t : State), i.isCommand = true → exec i s = .next t → t.code ≠ .ok →
    t = { s with code := t.code, fault := s.fault || t.code.fatal }) ∧
  (∀ (v : Word) (s t : State), issue v s = .next t → t.code ≠ .ok →
    t = { s with code := t.code, fault := s.fault || t.code.fatal }) ∧
  (∀ (a : HostAction) (s t : State), hostAction a s = .next t → s.code ≠ .accessFault → t.code = .accessFault →
    t = { s with code := .accessFault, fault := true, reply := t.reply, faultReads := t.faultReads })

/-- What success does: `CODE` is 0, `FAULT` is unchanged, and `CVALID` is too unless the operation sets it itself
(R203). -/
def Obligations.SuccessKeepsFaultAndCvalid : Prop :=
  ∀ (i : Instr) (s t : State), i.isCommand = true → exec i s = .next t → t.code = .ok →
    t.code.value = 0 ∧ t.fault = s.fault ∧ t.cvalid = (s.cvalid || i.initsCounter)

/-- `Degenerate` is raised by `XFORM` when `N` is -1, 0 or 1, changes `CODE` only, and is raised by nothing else
(R205). -/
def Obligations.DegenerateExactly : Prop :=
  (∀ (n : Int) (s : State), -1 ≤ n → n ≤ 1 → exec (.xform n) s = .next { s with code := .degenerate }) ∧
  (∀ (a : HostAction) (s t : State), hostAction a s = .next t → s.code ≠ .degenerate → t.code = .degenerate →
    ∃ v n, a = .regWrite 0 32 v ∧ decode v = .ok (.xform n) ∧ -1 ≤ n ∧ n ≤ 1)

/-- `InvalidPayloadLength` is raised by `ENCB` and `DECB` when `LEN mod 4 ≠ 0` or `LEN < 8`, and by nothing else
(R206). -/
def Obligations.InvalidPayloadLengthExactly : Prop :=
  (∀ (len : Nat) (s : State), len % 4 ≠ 0 ∨ len < 8 →
    exec (.encb len) s = .next { s with code := .invalidPayloadLength, fault := true } ∧
    exec (.decb len) s = .next { s with code := .invalidPayloadLength, fault := true }) ∧
  (∀ (a : HostAction) (s t : State), hostAction a s = .next t → s.code ≠ .invalidPayloadLength →
    t.code = .invalidPayloadLength →
    ∃ v len, a = .regWrite 0 32 v ∧ (decode v = .ok (.encb len) ∨ decode v = .ok (.decb len)) ∧
      (len % 4 ≠ 0 ∨ len < 8))

/-- `VectorRange` is raised by `XFORM` when `abs(N) > NMAX`, by `ENCB` and `DECB` when `LEN` is valid but too long, by
`CTRXOR` when `LEN > 4*NMAX` (and the counter is initialised, R214), and by nothing else (R208). -/
def Obligations.VectorRangeExactly : Prop :=
  (∀ (n : Int) (s : State), 2 ≤ n.natAbs → s.cfg.nmax < n.natAbs →
    exec (.xform n) s = .next { s with code := .vectorRange, fault := true }) ∧
  (∀ (len : Nat) (s : State), len % 4 = 0 → 8 ≤ len → s.cfg.nmax < len / 4 →
    exec (.encb len) s = .next { s with code := .vectorRange, fault := true } ∧
    exec (.decb len) s = .next { s with code := .vectorRange, fault := true }) ∧
  (∀ (len : Nat) (s : State), s.cvalid = true → 4 * s.cfg.nmax < len →
    exec (.ctrxor len) s = .next { s with code := .vectorRange, fault := true }) ∧
  (∀ (a : HostAction) (s t : State), hostAction a s = .next t → s.code ≠ .vectorRange → t.code = .vectorRange →
    ∃ v i, a = .regWrite 0 32 v ∧ decode v = .ok i ∧
      ((∃ n : Int, i = .xform n ∧ 2 ≤ n.natAbs ∧ s.cfg.nmax < n.natAbs) ∨
       (∃ len : Nat, (i = .encb len ∨ i = .decb len) ∧ len % 4 = 0 ∧ 8 ≤ len ∧ s.cfg.nmax < len / 4) ∨
       (∃ len : Nat, i = .ctrxor len ∧ s.cvalid = true ∧ 4 * s.cfg.nmax < len)))

/-- `CtrUninit` is raised by `CTRREGEN`, `CTRNEXT` and `CTRXOR` when `CVALID = 0`, whatever the length, and by nothing
else (R209, R214). -/
def Obligations.CtrUninitExactly : Prop :=
  (∀ s : State, s.cvalid = false →
    exec .ctrregen s = .next { s with code := .ctrUninit, fault := true } ∧
    exec .ctrnext s = .next { s with code := .ctrUninit, fault := true } ∧
    ∀ len, exec (.ctrxor len) s = .next { s with code := .ctrUninit, fault := true }) ∧
  (∀ (a : HostAction) (s t : State), hostAction a s = .next t → s.code ≠ .ctrUninit → t.code = .ctrUninit →
    s.cvalid = false ∧
    ∃ v i, a = .regWrite 0 32 v ∧ decode v = .ok i ∧ (i = .ctrregen ∨ i = .ctrnext ∨ ∃ len, i = .ctrxor len))

/-! ## The block transform -/

/-- `MX` as integers modulo 2^32: the XOR of two sums, logical shifts, key word `(p & 3) ^ e` (R101). -/
def Obligations.MxIsTheXorOfTwoSums : Prop :=
  ∀ (y z sum : Word) (e : BitVec 2) (p : Nat) (key : Key),
    (Cipher.mx y z sum e p key).toNat =
      (((z.toNat / 32) ^^^ (y.toNat * 4 % 2 ^ 32)) + ((y.toNat / 8) ^^^ (z.toNat * 16 % 2 ^ 32))) % 2 ^ 32 ^^^
      ((sum.toNat ^^^ y.toNat) +
        (([key.k0, key.k1, key.k2, key.k3].getD ((p % 4) ^^^ e.toNat) 0).toNat ^^^ z.toNat)) % 2 ^ 32

/-- The equations of one `Encode` round (R102, R104 (b)), with `e = (sum >> 2) & 3`: word `p` from the next word as it
stood, the previous word as just written and, for the last word, the first word as already written. -/
def Obligations.EncodeRoundEquations : Prop :=
  ∀ (n : Nat) (key : Key) (sum z : Word) (ws : List Word), 2 ≤ n → ws.length = n →
    let w' := (Cipher.encodeRound n key sum (ws, z)).1
    let e := BitVec.ofNat 2 (sum.toNat / 4 % 4)
    w'.length = n ∧
    (∀ p, p + 1 < n → w'.getD p 0 =
      ws.getD p 0 + Cipher.mx (ws.getD (p + 1) 0) (if p = 0 then z else w'.getD (p - 1) 0) sum e p key) ∧
    w'.getD (n - 1) 0 =
      ws.getD (n - 1) 0 + Cipher.mx (w'.getD 0 0) (w'.getD (n - 2) 0) sum e (n - 1) key ∧
    (Cipher.encodeRound n key sum (ws, z)).2 = w'.getD (n - 1) 0

/-- The rounds of the transform (R102, R103, R104 (a)): their number `q = 6 + floor(52/n)`, by the table of R104 (a), with
the end values of `sum`; no multiple `k * DELTA` with `1 ≤ k ≤ 32` is 0; `Encode` is `q` rounds, round `r` (1-based) with
`sum = mul32(r, DELTA)`, and `Decode` is `q` rounds with the same sums in reverse, its loop running exactly `q` times. -/
def Obligations.RoundCountAndSums : Prop :=
  let sumOf := fun k : Nat => mul32 (BitVec.ofNat 32 k) 0x9E3779B9#32
  (∀ n, 2 ≤ n → Cipher.rounds n = 6 + 52 / n ∧ 6 ≤ Cipher.rounds n ∧ Cipher.rounds n ≤ 32) ∧
  (∀ row ∈ [(2, 32), (3, 23), (4, 19), (5, 16), (6, 14), (7, 13), (8, 12), (9, 11), (10, 11), (11, 10), (12, 10), (13, 10)],
    Cipher.rounds row.1 = row.2) ∧
  (∀ n, (14 ≤ n → n ≤ 17 → Cipher.rounds n = 9) ∧ (18 ≤ n → n ≤ 26 → Cipher.rounds n = 8) ∧
    (27 ≤ n → n ≤ 52 → Cipher.rounds n = 7) ∧ (53 ≤ n → Cipher.rounds n = 6)) ∧
  (∀ k : Nat, 1 ≤ k → k ≤ 32 → sumOf k ≠ 0) ∧
  (∀ row ∈ [(2, 0xC6EF3720#32), (3, 0x36FBEF9F#32), (4, 0xBE1E08BB#32), (5, 0xE3779B90#32), (10, 0xCC623AF3#32)],
    sumOf (Cipher.rounds row.1) = row.2) ∧
  (∀ n, (27 ≤ n → n ≤ 52 → sumOf (Cipher.rounds n) = 0x5384540F#32) ∧
    (53 ≤ n → sumOf (Cipher.rounds n) = 0xB54CDA56#32)) ∧
  (∀ (n : Nat) (key : Key) (ws : List Word), 2 ≤ n →
    Cipher.encode ws n key = ((List.range (Cipher.rounds n)).foldl
      (fun st r => Cipher.encodeRound n key (sumOf (r + 1)) st) (ws, ws.getD (n - 1) 0)).1 ∧
    Cipher.decode ws n key = ((List.range (Cipher.rounds n)).foldl
      (fun st j => Cipher.decodeRound n key (sumOf (Cipher.rounds n - j)) st) (ws, ws.getD 0 0)).1)

/-- `Decode(Encode(W, n, key), n, key) = W` and `Encode(Decode(W, n, key), n, key) = W` for every `n ≥ 2`, any words and
any key (R104 (b)). -/
def Obligations.DecodeAndEncodeAreInverse : Prop :=
  ∀ (n : Nat) (key : Key) (ws : List Word), 2 ≤ n → ws.length = n →
    Cipher.decode (Cipher.encode ws n key) n key = ws ∧ Cipher.encode (Cipher.decode ws n key) n key = ws

/-- `Encode` and `Decode` read and write only `W[0 .. n-1]` of a longer array (R104 (c)). -/
def Obligations.TransformsAreLocal : Prop :=
  ∀ (n : Nat) (key : Key) (ws : List Word), 2 ≤ n → n ≤ ws.length →
    Cipher.encode ws n key = Cipher.encode (ws.take n) n key ++ ws.drop n ∧
    Cipher.decode ws n key = Cipher.decode (ws.take n) n key ++ ws.drop n

/-- `XFORM n` with `1 < n ≤ NMAX` encodes the first `n` words of VEC under `K`, and with `-NMAX ≤ n < -1` decodes the
first `-n`; every other byte and every other field keeps its value, and `CODE` is 0 (R100). -/
def Obligations.XformTransformsTheVector : Prop :=
  (∀ (n : Int) (s : State), Memory.wf s.buf = true → 1 < n → n ≤ s.cfg.nmax →
    ∃ t, exec (.xform n) s = .next t ∧
      (∀ j, j < n.toNat → t.vecWord j = (Cipher.encode (s.loadVec n.toNat) n.toNat s.k).getD j 0) ∧
      (∀ a, 4 * n.toNat ≤ a → t.bufByte a = s.bufByte a) ∧
      t = { s with buf := t.buf, code := .ok }) ∧
  (∀ (n : Int) (s : State), Memory.wf s.buf = true → n < -1 → -n ≤ s.cfg.nmax →
    ∃ t, exec (.xform n) s = .next t ∧
      (∀ j, j < (-n).toNat → t.vecWord j = (Cipher.decode (s.loadVec (-n).toNat) (-n).toNat s.k).getD j 0) ∧
      (∀ a, 4 * (-n).toNat ≤ a → t.bufByte a = s.bufByte a) ∧
      t = { s with buf := t.buf, code := .ok })

/-- `ENCB len` and `DECB len` for a valid length that fits: byte `a < len` of BUF is byte `a` of the encoded, or decoded,
words; every other byte and field keeps its value, and `CODE` is 0 (R105, R106). -/
def Obligations.EncbAndDecbTransformTheBuffer : Prop :=
  ∀ (len : Nat) (s : State), Memory.wf s.buf = true → len % 4 = 0 → 8 ≤ len → len ≤ 4 * s.cfg.nmax →
    (∃ t, exec (.encb len) s = .next t ∧
      (∀ a, a < len → t.bufByte a =
        (bytesOfWords s.cfg.byteOrder (Cipher.encode (s.loadVec (len / 4)) (len / 4) s.k)).getD a 0) ∧
      (∀ a, len ≤ a → t.bufByte a = s.bufByte a) ∧
      t = { s with buf := t.buf, code := .ok }) ∧
    (∃ t, exec (.decb len) s = .next t ∧
      (∀ a, a < len → t.bufByte a =
        (bytesOfWords s.cfg.byteOrder (Cipher.decode (s.loadVec (len / 4)) (len / 4) s.k)).getD a 0) ∧
      (∀ a, len ≤ a → t.bufByte a = s.bufByte a) ∧
      t = { s with buf := t.buf, code := .ok })

/-- `ENCB L` has exactly the effect of `XFORM L/4`, and `DECB L` of `XFORM -(L/4)`, whenever `L` is valid (R107 (b)). -/
def Obligations.ByteWrapperIsTheTransform : Prop :=
  ∀ (len : Nat) (s : State), len % 4 = 0 → 8 ≤ len →
    exec (.encb len) s = exec (.xform ((len / 4 : Nat) : Int)) s ∧
    exec (.decb len) s = exec (.xform (-((len / 4 : Nat) : Int))) s

/-- The transform undoes itself on the machine: `XFORM n` then `XFORM -n` restore BUF, for `n` of either sign
(R104 (b)), and so do `ENCB L` then `DECB L`, and `DECB L` then `ENCB L`, for every valid `L ≤ 4*NMAX` (R107 (a)). -/
def Obligations.BlockRoundTrips : Prop :=
  (∀ (n : Int) (s : State), Memory.wf s.buf = true → 2 ≤ n.natAbs → n.natAbs ≤ s.cfg.nmax →
    ∃ t, exec (.xform n) s = .next t ∧ exec (.xform (-n)) t = .next { s with code := .ok }) ∧
  (∀ (len : Nat) (s : State), Memory.wf s.buf = true → len % 4 = 0 → 8 ≤ len → len ≤ 4 * s.cfg.nmax →
    (∃ t, exec (.encb len) s = .next t ∧ exec (.decb len) t = .next { s with code := .ok }) ∧
    (∃ t, exec (.decb len) s = .next t ∧ exec (.encb len) t = .next { s with code := .ok }))

/-! ## The counter-mode stream -/

/-- `Regen()` (R131): KS is the encryption of the counter before the increment, the 64-bit counter goes up by one
(wrapping), `CUR` is 0, and nothing else changes. -/
def Obligations.RegenEncryptsThenCounts : Prop :=
  ∀ s : State,
    s.regen.ks.toList = bytesOfWords s.cfg.byteOrder (Cipher.encode [s.high, s.low] 2 s.cfg.keyCtr) ∧
    s.regen.counter = s.counter + 1 ∧
    s.regen = { s with ks := s.regen.ks, high := s.regen.high, low := s.regen.low, cur := 0 }

/-- `CTRINIT` (R132): KS from `(0, ARG0)`, the counter `ARG0 + 1`, `CUR = 0`, `CVALID = 1`, whatever `CVALID` was.
`CTRINIT0` (R133) is the same with IV 0 and does not read `ARG0`. -/
def Obligations.CtrinitStartsTheStream : Prop :=
  ∀ s : State,
    (∃ t, exec .ctrinit s = .next t ∧
      t.ks = keystreamBlock s.cfg.byteOrder s.cfg.keyCtr 0 s.arg0 ∧
      t.counter = s.arg0.setWidth 64 + 1 ∧
      t = { s with ks := t.ks, high := t.high, low := t.low, cur := 0, cvalid := true, code := .ok }) ∧
    exec .ctrinit0 s = .next
      { s with ks := keystreamBlock s.cfg.byteOrder s.cfg.keyCtr 0 0, high := 0, low := 1, cur := 0, cvalid := true,
               code := .ok }

/-- `CTRREGEN` (R134) with an initialised counter: the next block, `CUR = 0`. -/
def Obligations.CtrregenMovesToTheNextBlock : Prop :=
  ∀ s : State, s.cvalid = true → ∃ t, exec .ctrregen s = .next t ∧
    t.ks = keystreamBlock s.cfg.byteOrder s.cfg.keyCtr s.high s.low ∧
    t.counter = s.counter + 1 ∧
    t = { s with ks := t.ks, high := t.high, low := t.low, cur := 0, code := .ok }

/-- `CTRNEXT` (R135): the byte at the cursor, zero-extended; a spent buffer is regenerated first. -/
def Obligations.CtrnextTakesOneByte : Prop :=
  (∀ s : State, s.cvalid = true → s.cur.toNat < 8 →
    exec .ctrnext s = .next
      { s with res := (s.ks.toList.getD s.cur.toNat 0).setWidth 32, cur := s.cur + 1, code := .ok }) ∧
  (∀ s : State, s.cvalid = true → s.cur.toNat = 8 → ∃ t, exec .ctrnext s = .next t ∧
    t.ks = keystreamBlock s.cfg.byteOrder s.cfg.keyCtr s.high s.low ∧
    t.res = (t.ks.toList.getD 0 0).setWidth 32 ∧ t.counter = s.counter + 1 ∧
    t = { s with ks := t.ks, res := t.res, high := t.high, low := t.low, cur := 1, code := .ok })

/-- `CTRXOR len` (R136) with an initialised counter and `len ≤ 4*NMAX`: byte `a < len` is XORed with keystream byte `a`,
every other byte is unchanged, the counter unit is left as `len` `NextByte()`s leave it, and nothing else changes; with
`len = 0` nothing but `CODE` does. -/
def Obligations.CtrxorXorsTheKeystream : Prop :=
  ∀ (len : Nat) (s : State), Memory.wf s.buf = true → s.cvalid = true → len ≤ 4 * s.cfg.nmax →
    ∃ t, exec (.ctrxor len) s = .next t ∧
      (∀ a, a < len → t.bufByte a = s.bufByte a ^^^ (s.takeBytes len).1.getD a 0) ∧
      (∀ a, len ≤ a → t.bufByte a = s.bufByte a) ∧
      t = { (s.takeBytes len).2 with buf := t.buf, code := .ok } ∧
      t = { s with buf := t.buf, ks := t.ks, high := t.high, low := t.low, cur := t.cur, code := .ok } ∧
      (len = 0 → t = { s with code := .ok })

/-- The closed form of the keystream (R137): the bytes taken since `CTRINIT` with IV `v`, the cursor and the counter. -/
def Obligations.KeystreamClosedForm : Prop :=
  ∀ (s s0 : State) (n : Nat), exec .ctrinit s = .next s0 →
    let v := s.arg0.setWidth 64
    (s0.takeBytes n).1 = (List.range n).map (streamByte s.cfg v) ∧
    (n = 0 → (s0.takeBytes n).2.cur = 0 ∧ (s0.takeBytes n).2.counter = v + 1) ∧
    (0 < n → (s0.takeBytes n).2.cur.toNat = (n - 1) % 8 + 1 ∧
      (s0.takeBytes n).2.counter = v + BitVec.ofNat 64 ((n - 1) / 8) + 1)

/-- How often `CTRXOR len` regenerates (R231): for `len ≥ 1`, exactly `floor((CUR + len - 1)/8)` times, and the counter
goes up by that. -/
def Obligations.CtrxorRegenerationCount : Prop :=
  ∀ (len : Nat) (s t : State), s.cvalid = true → s.cur.toNat ≤ 8 → 1 ≤ len → len ≤ 4 * s.cfg.nmax →
    exec (.ctrxor len) s = .next t →
    t.counter = s.counter + BitVec.ofNat 64 ((s.cur.toNat + len - 1) / 8)

/-- Continuity (R138 (a)): two consecutive buffers on one stream give the same bytes as their concatenation in one
call, and leave the same counter state. `m2` is BUF once the host has loaded the second buffer, `m12` BUF with both. -/
def Obligations.StreamContinuity : Prop :=
  ∀ (a b : Nat) (s : State) (m2 m12 : List Host.Cell),
    s.cvalid = true → a + b ≤ 4 * s.cfg.nmax →
    Memory.wf s.buf = true → Memory.wf m2 = true → Memory.wf m12 = true →
    (∀ i, i < a → Memory.read m12 i = s.bufByte i) →
    (∀ i, i < b → Memory.read m12 (a + i) = Memory.read m2 i) →
    ∃ t u v, exec (.ctrxor a) s = .next t ∧ exec (.ctrxor b) { t with buf := m2 } = .next u ∧
      exec (.ctrxor (a + b)) { s with buf := m12 } = .next v ∧
      (∀ i, i < a → v.bufByte i = t.bufByte i) ∧ (∀ i, i < b → v.bufByte (a + i) = u.bufByte i) ∧
      v.ks = u.ks ∧ v.high = u.high ∧ v.low = u.low ∧ v.cur = u.cur

/-- Reproducibility (R138 (b)): re-initialising with the same IV and XORing again recovers the plaintext. -/
def Obligations.StreamDecryptsItself : Prop :=
  ∀ (len : Nat) (s : State), Memory.wf s.buf = true → len ≤ 4 * s.cfg.nmax →
    ∃ s1 s2 s3 s4, exec .ctrinit s = .next s1 ∧ exec (.ctrxor len) s1 = .next s2 ∧
      exec .ctrinit s2 = .next s3 ∧ exec (.ctrxor len) s3 = .next s4 ∧ s4 = { s2 with buf := s.buf }

/-! ## The command frames -/

/-- `FRQRY`, `FRSTART`, `FRSTOP`: the constant frame, whole in FRM, `FLEN = 5`, and nothing else but `CODE` changes
(R151, R152, R153). -/
def Obligations.FixedFramesAreBuilt : Prop :=
  ∀ s : State,
    (∃ t, exec .frqry s = .next t ∧
      t.frm.toList = [0x04, 0x14, 0, 0, 0, 0, 0, 0, 0, 0, 0, 0, 0, 0, 0, 0] ∧ t.flen = 5 ∧
      t = { s with frm := t.frm, flen := 5, code := .ok }) ∧
    (∃ t, exec .frstart s = .next t ∧
      t.frm.toList = [0x04, 0x21, 0, 0, 0, 0, 0, 0, 0, 0, 0, 0, 0, 0, 0, 0] ∧ t.flen = 5 ∧
      t = { s with frm := t.frm, flen := 5, code := .ok }) ∧
    (∃ t, exec .frstop s = .next t ∧
      t.frm.toList = [0x04, 0x22, 0, 0, 0, 0, 0, 0, 0, 0, 0, 0, 0, 0, 0, 0] ∧ t.flen = 5 ∧
      t = { s with frm := t.frm, flen := 5, code := .ok })

/-- `FRMVU` and `FRMVD`: `0D 40`, the 12 bytes of `Encode([12345, ARG0, ARG1], 3, key)` under their two keys, two zero
bytes; `FLEN = 14`; nothing else but `CODE` changes (R154, R155). -/
def Obligations.MoveFramesAreBuilt : Prop :=
  ∀ s : State,
    (∃ t, exec .frmvu s = .next t ∧
      t.frm.toList = [0x0D, 0x40] ++
        bytesOfWords s.cfg.byteOrder (Cipher.encode [12345, s.arg0, s.arg1] 3 s.cfg.keyPenUp) ++ [0, 0] ∧
      t.flen = 14 ∧ t = { s with frm := t.frm, flen := 14, code := .ok }) ∧
    (∃ t, exec .frmvd s = .next t ∧
      t.frm.toList = [0x0D, 0x40] ++
        bytesOfWords s.cfg.byteOrder (Cipher.encode [12345, s.arg0, s.arg1] 3 s.cfg.keyPenDown) ++ [0, 0] ∧
      t.flen = 14 ∧ t = { s with frm := t.frm, flen := 14, code := .ok })

/-- A move payload copied to `BUF[0..11]` and decoded with the same key by `XFORM -3` recovers `[12345, x, y]`
(R156 (b)). -/
def Obligations.MovePayloadDecrypts : Prop :=
  ∀ (i : Instr) (s t u : State),
    (i = .frmvu ∧ u.k = s.cfg.keyPenUp ∨ i = .frmvd ∧ u.k = s.cfg.keyPenDown) →
    exec i s = .next t → u.cfg = s.cfg → 3 ≤ s.cfg.nmax → Memory.wf u.buf = true →
    (∀ j, j < 12 → u.bufByte j = t.frmByte (2 + j)) →
    ∃ v, exec (.xform (-3)) u = .next v ∧
      v.vecWord 0 = 12345 ∧ v.vecWord 1 = s.arg0 ∧ v.vecWord 2 = s.arg1

/-- What a frame operation leaves in FRM is the wire frame of its kind (R74, R150); a pen-down frame whose payload shows
the marker under the pen-up key too, which happens only by chance (R156 (b)), is not told apart from its bytes and reads as a
pen-up frame (assumption 9). -/
def Obligations.BuiltFramesAreWireFrames : Prop :=
  ∀ (i : Instr) (s t : State), i.isFrameOp = true → exec i s = .next t →
    t.frameBytes.length = t.flen.toNat ∧
    (i = .frqry → decodeWire t.cfg t.frameBytes = .ok .wireQueryMatLoaded) ∧
    (i = .frstart → decodeWire t.cfg t.frameBytes = .ok .wireStartCut) ∧
    (i = .frstop → decodeWire t.cfg t.frameBytes = .ok .wireStopCut) ∧
    (i = .frmvu → decodeWire t.cfg t.frameBytes = .ok (.wireMovePenUp (t.frameBytes.drop 2))) ∧
    (i = .frmvd → hasMarker t.cfg t.cfg.keyPenUp (t.frameBytes.drop 2) = false →
      decodeWire t.cfg t.frameBytes = .ok (.wireMovePenDown (t.frameBytes.drop 2)))

/-! ## Wire frames on the link -/

/-- Each of the five wire frames, put on an open link that accepts its bytes, goes out whole and in frame order, and
changes nothing else: no engine state (R74, R170, R178). -/
def Obligations.WireFramesAreWritten : Prop :=
  ∀ (s : State) (i : Instr) (bs : List Byte),
    (i = .wireQueryMatLoaded ∧ bs = [0x04, 0x14, 0, 0, 0] ∨ i = .wireStartCut ∧ bs = [0x04, 0x21, 0, 0, 0] ∨
      i = .wireStopCut ∧ bs = [0x04, 0x22, 0, 0, 0] ∨
      (∃ p, i = .wireMovePenUp p ∧ bs = 0x0D :: 0x40 :: p) ∨ (∃ p, i = .wireMovePenDown p ∧ bs = 0x0D :: 0x40 :: p)) →
    s.link.handle.isSome = true → (∀ n, s.link.accepts = some n → bs.length ≤ n) →
    exec i s = .next
      { s with link := { s.link with tx := s.link.tx ++ bs, accepts := s.link.accepts.map (· - bs.length) },
               callResult := .written }

/-- A link error is propagated (R178): what the link accepted before it has gone out, one byte at a time. That a closed
link accepts nothing is the model's choice (assumption 8). -/
def Obligations.WireFramesPropagateLinkErrors : Prop :=
  ∀ (s : State) (i : Instr) (bs : List Byte), encode i = .frame bs →
    (s.link.handle = none → exec i s = .next { s with callResult := .linkError }) ∧
    (∀ n, s.link.handle.isSome = true → s.link.accepts = some n → n < bs.length →
      exec i s = .next
        { s with link := { s.link with tx := s.link.tx ++ bs.take n, accepts := some 0 }, callResult := .linkError })

/-! ## The host port -/

/-- The registers read as R17 to R24 say, and a read changes nothing but the reply (R47). -/
def Obligations.RegisterReads : Prop :=
  ∀ s : State,
    hostAction (.regRead 1 32) s = .next { s with reply := .data s.statusWord } ∧
    hostAction (.regRead 2 32) s = .next { s with reply := .data s.arg0 } ∧
    hostAction (.regRead 3 32) s = .next { s with reply := .data s.arg1 } ∧
    hostAction (.regRead 4 32) s = .next { s with reply := .data s.res } ∧
    hostAction (.regRead 5 32) s = .next { s with reply := .data (s.flen.setWidth 32) } ∧
    hostAction (.regRead 12 32) s = .next { s with reply := .data s.k.k0 } ∧
    hostAction (.regRead 13 32) s = .next { s with reply := .data s.k.k1 } ∧
    hostAction (.regRead 14 32) s = .next { s with reply := .data s.k.k2 } ∧
    hostAction (.regRead 15 32) s = .next { s with reply := .data s.k.k3 } ∧
    (s.cvalid = true →
      hostAction (.regRead 6 32) s = .next { s with reply := .data s.high } ∧
      hostAction (.regRead 7 32) s = .next { s with reply := .data s.low } ∧
      hostAction (.regRead 8 32) s = .next { s with reply := .data (s.cur.setWidth 32) })

/-- While `CVALID = 0` the counter registers still read, and stably: a second read answers the same (R21, R25, R47). That
the answer does not depend on what the registers hold is the model's choice (assumption 6). -/
def Obligations.UninitialisedCounterReadsAreStable : Prop :=
  ∀ (s : State) (i : Nat), s.cvalid = false → i = 6 ∨ i = 7 ∨ i = 8 →
    ∃ w, hostAction (.regRead i 32) s = .next { s with reply := .data w } ∧
      hostAction (.regRead i 32) { s with reply := .data w } = .next { s with reply := .data w } ∧
      (∀ h l c, hostAction (.regRead i 32) { s with high := h, low := l, cur := c } =
        .next { s with high := h, low := l, cur := c, reply := .data w }) ∧
      (i = 8 → w.toNat < 16)

/-- The registers the host can write take the word and nothing else changes; writing `CMD` issues the operation (R48). -/
def Obligations.RegisterWrites : Prop :=
  ∀ (s : State) (v : Word),
    hostAction (.regWrite 2 32 v) s = .next { s with arg0 := v, reply := .none } ∧
    hostAction (.regWrite 3 32 v) s = .next { s with arg1 := v, reply := .none } ∧
    hostAction (.regWrite 12 32 v) s = .next { s with k := { s.k with k0 := v }, reply := .none } ∧
    hostAction (.regWrite 13 32 v) s = .next { s with k := { s.k with k1 := v }, reply := .none } ∧
    hostAction (.regWrite 14 32 v) s = .next { s with k := { s.k with k2 := v }, reply := .none } ∧
    hostAction (.regWrite 15 32 v) s = .next { s with k := { s.k with k3 := v }, reply := .none } ∧
    (∀ i, decode v = .ok i → hostAction (.regWrite 0 32 v) s = exec i { s with reply := .none })

/-- Every other register access is an access fault: `CODE` and `FAULT` change, a write is discarded, a read answers some
word (R49). -/
def Obligations.RegisterAccessFaults : Prop :=
  ∀ (s : State) (index width : Nat) (v : Word),
    (width ≠ 32 ∨ index ∉ readableRegs →
      ∃ w, hostAction (.regRead index width) s = .next
        { s with code := .accessFault, fault := true, reply := .data w, faultReads := s.faultReads + 1 }) ∧
    (width ≠ 32 ∨ index ∉ writableRegs →
      hostAction (.regWrite index width v) s = .next
        { s with code := .accessFault, fault := true, reply := .none })

/-- VEC and BUF are the same storage, little-endian (R43) or, under the other setting, big-endian (R44). -/
def Obligations.VecAndBufAreOneStorage : Prop :=
  ∀ (s : State) (i k : Nat), k < 4 →
    (s.cfg.byteOrder = .little → s.bufByte (4 * i + k) = (s.vecWord i).extractLsb' (8 * k) 8 ∧
      (s.vecWord i).toNat = (s.bufByte (4 * i)).toNat + 256 * (s.bufByte (4 * i + 1)).toNat +
        65536 * (s.bufByte (4 * i + 2)).toNat + 16777216 * (s.bufByte (4 * i + 3)).toNat) ∧
    (s.cfg.byteOrder = .big → s.bufByte (4 * i + k) = (s.vecWord i).extractLsb' (24 - 8 * k) 8)

/-- A well-formed memory read answers the byte or word, and changes nothing but the reply (R50). That a 4-byte read of FRM
is R50's sum under `BYTE_ORDER = big` too is deduced: R44 does not name R50 (assumption 10). -/
def Obligations.MemoryReads : Prop :=
  ∀ (s : State) (addr : Nat),
    (addr < 4 * s.cfg.nmax →
      hostAction (.memRead .buf addr 1) s = .next { s with reply := .data ((s.bufByte addr).setWidth 32) }) ∧
    (addr % 4 = 0 → addr + 4 ≤ 4 * s.cfg.nmax →
      hostAction (.memRead .buf addr 4) s = .next { s with reply := .data (s.vecWord (addr / 4)) }) ∧
    (addr < 16 →
      hostAction (.memRead .frm addr 1) s = .next { s with reply := .data ((s.frmByte addr).setWidth 32) }) ∧
    (addr = 0 ∨ addr = 4 ∨ addr = 8 ∨ addr = 12 →
      ∃ w : Word, hostAction (.memRead .frm addr 4) s = .next { s with reply := .data w } ∧
        w.toNat = (s.frmByte addr).toNat + 256 * (s.frmByte (addr + 1)).toNat +
          65536 * (s.frmByte (addr + 2)).toNat + 16777216 * (s.frmByte (addr + 3)).toNat)

/-- A well-formed write stores its byte or word in BUF, and changes nothing else (R51). -/
def Obligations.MemoryWrites : Prop :=
  ∀ (s : State) (addr : Nat) (v : Word), Memory.wf s.buf = true →
    (addr < 4 * s.cfg.nmax → v.toNat ≤ 255 →
      ∃ t, hostAction (.memWrite .buf addr 1 v) s = .next t ∧ t.bufByte addr = v.setWidth 8 ∧
        (∀ a, a ≠ addr → t.bufByte a = s.bufByte a) ∧ t = { s with buf := t.buf, reply := .none }) ∧
    (addr % 4 = 0 → addr + 4 ≤ 4 * s.cfg.nmax →
      ∃ t, hostAction (.memWrite .buf addr 4 v) s = .next t ∧ t.vecWord (addr / 4) = v ∧
        (∀ a, a < addr ∨ addr + 4 ≤ a → t.bufByte a = s.bufByte a) ∧ t = { s with buf := t.buf, reply := .none })

/-- Every other memory access is an access fault: a wrong size, a misaligned word, an address outside the space, any
write to FRM (R52). -/
def Obligations.MemoryAccessFaults : Prop :=
  ∀ (s : State) (space : Space) (addr n : Nat) (v : Word),
    let top := match space with
      | .buf => 4 * s.cfg.nmax
      | .frm => 16
    ((n ≠ 1 ∧ n ≠ 4) ∨ (n = 4 ∧ addr % 4 ≠ 0) ∨ top < addr + n →
      (∃ w, hostAction (.memRead space addr n) s = .next
        { s with code := .accessFault, fault := true, reply := .data w, faultReads := s.faultReads + 1 }) ∧
      hostAction (.memWrite space addr n v) s = .next
        { s with code := .accessFault, fault := true, reply := .none }) ∧
    hostAction (.memWrite .frm addr n v) s = .next
      { s with code := .accessFault, fault := true, reply := .none }

/-- A 1-byte write of a value above 255 is no well-formed write and faults: the model's reading of R51 and R52
(assumption 11). -/
def Obligations.WideByteWriteFaults : Prop :=
  ∀ (s : State) (addr : Nat) (v : Word), 255 < v.toNat →
    hostAction (.memWrite .buf addr 1 v) s = .next { s with code := .accessFault, fault := true, reply := .none }

/-- The values the spec gives after reset (R25, R220), in the reset state and after the reset event from any state: the
event leaves the configuration alone (R221). That it leaves the link and the host software's phase alone is the model's
choice (assumption 8), and so is the agenda (assumption 2). The registers and BUF it leaves unspecified are not
mentioned. -/
def Obligations.ResetLeavesTheSpecsValues : Prop :=
  (State.reset.statusWord = 0 ∧ State.reset.res = 0 ∧ State.reset.flen = 0 ∧
    (∀ i, i < 16 → State.reset.frmByte i = 0)) ∧
  (∀ s : State, ∃ t, hostAction .reset s = .next t ∧
    t.statusWord = 0 ∧ t.res = 0 ∧ t.flen = 0 ∧ (∀ i, i < 16 → t.frmByte i = 0) ∧ t.cfg = s.cfg ∧
    t.agenda = s.agenda ∧ t.link = s.link ∧ t.phase = s.phase)

/-- The constant keys have no read path (R8, R217): what a read answers does not depend on them. -/
def Obligations.ConstantKeysCannotBeRead : Prop :=
  ∀ (s : State) (up down ctr : Key) (a : HostAction) (t : State),
    (∃ index width, a = .regRead index width) ∨ (∃ space addr n, a = .memRead space addr n) →
    hostAction a s = .next t →
    hostAction a { s with cfg := { s.cfg with keyPenUp := up, keyPenDown := down, keyCtr := ctr } } =
      .next { t with cfg := { s.cfg with keyPenUp := up, keyPenDown := down, keyCtr := ctr } }

/-! ## The assembler and the host software -/

/-- The pseudo-instructions `LDKEY`, `MVU` and `MVD` do what their expansions say (R76). -/
def Obligations.PseudoInstructionEffects : Prop :=
  ∀ (s : State) (k0 k1 k2 k3 x y : Word),
    hostActions (Asm.expand (.ldkey k0 k1 k2 k3)) s = .next { s with k := ⟨k0, k1, k2, k3⟩, reply := .none } ∧
    hostActions (Asm.expand (.mvu x y)) s = exec .frmvu { s with arg0 := x, arg1 := y, reply := .none } ∧
    hostActions (Asm.expand (.mvd x y)) s = exec .frmvd { s with arg0 := x, arg1 := y, reply := .none }

/-- `connect()` with no device, with a device that configures and with one that does not (R173, R182), and
`disconnect()`, which while disconnected is a no-op (R174). The phase after a configuration error and the closed link are
the model's choice (assumption 8), as are the call result the no-op leaves (assumption 22) and that opening never fails
(assumption 23). -/
def Obligations.HostConnectAndDisconnect : Prop :=
  ∀ (s : State) (rest : List Event),
    (s.agenda = .call .connect :: rest → s.phase = .disconnected →
      (s.link.devices = 0 → step s = .next { s with agenda := rest, callResult := .noDevice }) ∧
      (0 < s.link.devices → s.link.configures = true →
        step s = .next { s with agenda := rest, phase := .connected, callResult := .connected,
                                link := { s.link with handle := some 0, settings :=
                                  { baud := some Config.baudRate, timeouts := some Config.linkTimeouts,
                                    framing := some ⟨8, 0, 1⟩ } } }) ∧
      (0 < s.link.devices → s.link.configures = false →
        step s = .next { s with agenda := rest, callResult := .linkConfigurationError,
                                link := { s.link with handle := none, settings := LinkSettings.unset } })) ∧
    (s.agenda = .call .disconnect :: rest → s.phase = .connected →
      step s = .next { s with agenda := rest, phase := .disconnected, callResult := .disconnected,
                              link := { s.link with handle := none, settings := LinkSettings.unset } }) ∧
    (s.agenda = .call .disconnect :: rest → s.phase = .disconnected → step s = .next { s with agenda := rest })

/-- When the deadline of a wait elapses, more than one buffered byte is a reply and is read whole, one or none is an
empty reply and stays; a query is true only of 5 bytes whose 5th is 1, a move succeeds only on 5 bytes (R175, R177,
R179). -/
def Obligations.HostWaitEndsAtItsDeadline : Prop :=
  ∀ (s : State) (rest : List Event) (p : Pending),
    s.agenda = .deadline :: rest → s.phase = .awaiting p →
    ∃ t, step s = .next t ∧ t.phase = .connected ∧
      (s.link.rx.length ≤ 1 → t.link = s.link) ∧
      (1 < s.link.rx.length → t.link = { s.link with rx := [] }) ∧
      (p = .query → ∃ b, t.callResult = .matLoaded b ∧ (b = true ↔ s.link.rx.length = 5 ∧ s.link.rx.getD 4 0 = 1)) ∧
      (p = .move → ∃ b, t.callResult = .moved b ∧ (b = true ↔ s.link.rx.length = 5)) ∧
      (∀ n, p = .reply n → t.callResult = .replyBytes (if 1 < s.link.rx.length then s.link.rx else [])) ∧
      t = { s with agenda := rest, phase := .connected, callResult := t.callResult, link := t.link }

/-- `movePenUp(x, y)` and `movePenDown(x, y)` while connected: the engine builds the frame of `(x, y)` under the call's
key, its 14 bytes go out, and a reply of 5 bytes is awaited (R177). That bytes buffered before still count, here fewer
than 5, is assumption 17, and that the whole call is one step is assumption 25. -/
def Obligations.HostMoveCallsSendTheirFrame : Prop :=
  ∀ (s : State) (rest : List Event) (c : ClientCall) (x y : Word) (key : Key),
    (c = .movePenUp x y ∧ key = s.cfg.keyPenUp ∨ c = .movePenDown x y ∧ key = s.cfg.keyPenDown) →
    s.agenda = .call c :: rest → s.phase = .connected → s.link.handle.isSome = true → s.link.accepts = none →
    s.link.rx.length < 5 →
    ∃ t, step s = .next t ∧ t.phase = .awaiting .move ∧
      t.link = { s.link with tx := s.link.tx ++ ([0x0D, 0x40] ++
        bytesOfWords s.cfg.byteOrder (Cipher.encode [12345, x, y] 3 key)) } ∧
      t.frameBytes = [0x0D, 0x40] ++ bytesOfWords s.cfg.byteOrder (Cipher.encode [12345, x, y] 3 key) ∧
      t = { s with agenda := rest, arg0 := x, arg1 := y, frm := t.frm, flen := 14, code := .ok, reply := t.reply,
                   phase := .awaiting .move, callResult := .written, link := t.link }
end

