-- ==== Sys2Proof/Laws/Config.lean ====
section
/-! SUPPORT. The reset state's configuration meets R7's constraints, whatever the open keys are. -/

namespace Sys2Proof

theorem Config.deviceKeyPenDown_ne : Config.deviceKeyPenUp ≠ Config.deviceKeyPenDown := by
  unfold Config.deviceKeyPenDown
  split
  · intro h
    have h0 := congrArg Key.k0 h
    simp at h0
  · rename_i h
    exact fun e => h e.symm

theorem Config.device_wf : Config.device.wf = true := by
  simp only [Config.wf, Config.device, Bool.and_eq_true]
  exact ⟨⟨rfl, rfl⟩, decide_eq_true Config.deviceKeyPenDown_ne⟩

end Sys2Proof
end

