-- ==== Sys2Proof/Laws/Memory.lean ====
section
/-! SUPPORT. The laws of BUF's canonical memory: what a write reads as, and that every operation keeps the form. -/

namespace Sys2Proof.Machine

theorem Memory.read_write (m : List Host.Cell) (h : Memory.wf m) (a x : Nat) (b : Byte) :
    Memory.read (Memory.write m a b) x = if x = a then b else Memory.read m x := by
  induction m with
  | nil =>
    unfold Memory.write
    split <;> simp_all [Memory.read]
  | cons c m ih =>
    obtain ⟨k, v⟩ := c
    simp only [Memory.wf, Bool.and_eq_true, List.all_eq_true, decide_eq_true_eq] at h
    obtain ⟨⟨-, hk⟩, hw⟩ := h
    have absent : ∀ (l : List Host.Cell) (y : Nat), (∀ z ∈ l, y < z.1) → Memory.read l y = Memory.unlisted := by
      intro l y hl
      induction l with
      | nil => rfl
      | cons d l ihl =>
        have hd := hl d (by simp)
        simp only [Memory.read]
        rw [if_neg (by omega)]
        exact ihl (fun z hz => hl z (by simp [hz]))
    unfold Memory.write
    split
    · have hak := absent ((k, v) :: m) a (by
        intro z hz
        rcases List.mem_cons.1 hz with rfl | hz
        · simpa using ‹a < k›
        · have := hk z hz; omega)
      split
      · by_cases hx : x = a
        · subst hx; simp_all
        · simp [hx]
      · simp only [Memory.read]
    · split
      · subst a
        split
        · by_cases hx : x = k
          · subst hx; simp [absent m x hk, *]
          · simp [hx, Memory.read]
        · by_cases hx : x = k <;> simp [hx, Memory.read]
      · simp only [Memory.read, ih hw]
        by_cases hx : x = k
        · subst hx; simp; omega
        · simp [hx]

/-- A read after a write to the same address gives the byte written. -/
theorem Memory.read_write_same (m : List Host.Cell) (h : Memory.wf m) (a : Nat) (b : Byte) :
    Memory.read (Memory.write m a b) a = b := by
  simp [Memory.read_write m h]

/-- A write leaves every other address alone. -/
theorem Memory.read_write_other (m : List Host.Cell) (h : Memory.wf m) (a x : Nat) (b : Byte) (hx : x ≠ a) :
    Memory.read (Memory.write m a b) x = Memory.read m x := by
  simp [Memory.read_write m h, hx]

/-- Every entry after a write was there before or is the written one. -/
theorem Memory.mem_write {m : List Host.Cell} {a : Nat} {b : Byte} {c : Host.Cell} (h : c ∈ Memory.write m a b) :
    c ∈ m ∨ c = (a, b) := by
  induction m with
  | nil =>
    unfold Memory.write at h
    split at h <;> simp_all
  | cons d m ih =>
    obtain ⟨k, v⟩ := d
    unfold Memory.write at h
    split at h
    · split at h
      · exact .inl h
      · rcases List.mem_cons.1 h with h | h
        · exact .inr h
        · exact .inl h
    · split at h
      · split at h
        · exact .inl (List.mem_cons_of_mem _ h)
        · rcases List.mem_cons.1 h with h | h
          · exact .inr h
          · exact .inl (List.mem_cons_of_mem _ h)
      · rcases List.mem_cons.1 h with h | h
        · exact .inl (by simp [h])
        · rcases ih h with h | h
          · exact .inl (List.mem_cons_of_mem _ h)
          · exact .inr h

/-- A write keeps the canonical form. -/
theorem Memory.write_wf (m : List Host.Cell) (a : Nat) (b : Byte) (h : Memory.wf m) : Memory.wf (Memory.write m a b) := by
  induction m with
  | nil =>
    unfold Memory.write
    split <;> simp_all [Memory.wf]
  | cons c m ih =>
    obtain ⟨k, v⟩ := c
    simp only [Memory.wf, Bool.and_eq_true, List.all_eq_true, decide_eq_true_eq] at h
    obtain ⟨⟨hv, hk⟩, hw⟩ := h
    unfold Memory.write
    split
    · split
      · simp only [Memory.wf, Bool.and_eq_true, List.all_eq_true, decide_eq_true_eq]
        exact ⟨⟨hv, hk⟩, hw⟩
      · simp only [Memory.wf, Bool.and_eq_true, List.all_eq_true, decide_eq_true_eq]
        refine ⟨⟨by assumption, ?_⟩, ⟨hv, hk⟩, hw⟩
        intro x hx
        rcases List.mem_cons.1 hx with rfl | hx
        · assumption
        · have := hk x hx; omega
    · split
      · split
        · exact hw
        · simp only [Memory.wf, Bool.and_eq_true, List.all_eq_true, decide_eq_true_eq]
          refine ⟨⟨by assumption, ?_⟩, hw⟩
          intro x hx
          have := hk x hx; omega
      · simp only [Memory.wf, Bool.and_eq_true, List.all_eq_true, decide_eq_true_eq]
        refine ⟨⟨hv, ?_⟩, ih hw⟩
        intro x hx
        rcases Memory.mem_write hx with hx | rfl
        · exact hk x hx
        · simp only []; omega

theorem Memory.wf_iff (m : List Host.Cell) :
    Memory.wf m = true ↔ m.Pairwise (fun x y => x.1 < y.1) ∧ ∀ x ∈ m, x.2 ≠ Memory.unlisted := by
  induction m with
  | nil => simp [Memory.wf]
  | cons c m ih =>
    obtain ⟨k, v⟩ := c
    simp only [Memory.wf, Bool.and_eq_true, List.all_eq_true, decide_eq_true_eq, ih, List.pairwise_cons,
      List.forall_mem_cons]
    tauto

/-- Building a memory from its bytes gives the canonical form. -/
theorem Memory.ofBytes_wf (f : Nat → Byte) (n : Nat) : Memory.wf (Memory.ofBytes f n) := by
  rw [Memory.wf_iff]
  constructor
  · unfold Memory.ofBytes
    rw [List.pairwise_filterMap]
    refine List.Pairwise.imp ?_ List.pairwise_lt_range
    intro a a' h b hb b' hb'
    split at hb <;> split at hb' <;> simp_all
    rw [← hb, ← hb']
    exact h
  · intro x hx
    simp only [Memory.ofBytes, List.mem_filterMap] at hx
    obtain ⟨a, -, ha⟩ := hx
    split at ha
    · cases ha
    · cases ha; assumption

/-- Every entry of a memory built from its bytes lies below the bound. -/
theorem Memory.ofBytes_lt {f : Nat → Byte} {n : Nat} {c : Host.Cell} (h : c ∈ Memory.ofBytes f n) : c.1 < n := by
  simp only [Memory.ofBytes, List.mem_filterMap, List.mem_range] at h
  obtain ⟨a, ha, h⟩ := h
  split at h
  · cases h
  · cases h; exact ha

/-- A listed address reads as its entry, in a canonical memory. -/
theorem Memory.read_of_mem {m : List Host.Cell} (h : Memory.wf m) {a : Nat} {b : Byte} (hm : (a, b) ∈ m) :
    Memory.read m a = b := by
  induction m with
  | nil => cases hm
  | cons c m ih =>
    obtain ⟨k, v⟩ := c
    simp only [Memory.wf, Bool.and_eq_true, List.all_eq_true, decide_eq_true_eq] at h
    rcases List.mem_cons.1 hm with hm | hm
    · cases hm; simp [Memory.read]
    · have := h.1.2 _ hm
      simp only [Memory.read]
      rw [if_neg (by simp only [] at this; omega)]
      exact ih h.2 hm

/-- An address no entry lists reads as the unlisted byte. -/
theorem Memory.read_of_absent {m : List Host.Cell} {a : Nat} (h : ∀ b, (a, b) ∉ m) :
    Memory.read m a = Memory.unlisted := by
  induction m with
  | nil => rfl
  | cons c m ih =>
    obtain ⟨k, v⟩ := c
    simp only [Memory.read]
    rw [if_neg (by rintro rfl; exact h v (by simp))]
    exact ih (fun b hb => h b (by simp [hb]))

/-- What a memory built from its bytes reads as. -/
theorem Memory.read_ofBytes (f : Nat → Byte) (n a : Nat) :
    Memory.read (Memory.ofBytes f n) a = if a < n then f a else Memory.unlisted := by
  by_cases hn : a < n
  · by_cases hz : f a = Memory.unlisted
    · rw [if_pos hn, hz]
      apply Memory.read_of_absent
      intro b hb
      simp only [Memory.ofBytes, List.mem_filterMap] at hb
      obtain ⟨x, -, hx⟩ := hb
      split at hx
      · cases hx
      · cases hx; contradiction
    · rw [if_pos hn]
      apply Memory.read_of_mem (Memory.ofBytes_wf f n)
      simp only [Memory.ofBytes, List.mem_filterMap, List.mem_range]
      exact ⟨a, hn, by simp [hz]⟩
  · rw [if_neg hn]
    apply Memory.read_of_absent
    intro b hb
    exact hn (Memory.ofBytes_lt hb)

/-- Equal reads of canonical memories are equal memories. -/
theorem Memory.ext_of_read {m m' : List Host.Cell} (h : Memory.wf m) (h' : Memory.wf m')
    (hr : ∀ a, Memory.read m a = Memory.read m' a) : m = m' := by
  rw [Memory.wf_iff] at h h'
  have mem : ∀ {l l' : List Host.Cell}, Memory.wf l → Memory.wf l' → (∀ a, Memory.read l a = Memory.read l' a) →
      ∀ x ∈ l, x ∈ l' := by
    intro l l' hl hl' hll x hx
    by_contra hn
    have h1 := Memory.read_of_mem hl (a := x.1) (b := x.2) hx
    have h2 : x.2 ≠ Memory.unlisted := ((Memory.wf_iff l).1 hl).2 x hx
    have h3 : ∀ b, (x.1, b) ∉ l' := by
      intro b hb
      have h4 := Memory.read_of_mem hl' hb
      have h5 : b = x.2 := by rw [← h4, ← hll, h1]
      exact hn (by subst h5; exact hb)
    rw [hll, Memory.read_of_absent h3] at h1
    exact h2 h1.symm
  have hw := (Memory.wf_iff m).2 h
  have hw' := (Memory.wf_iff m').2 h'
  have nd : ∀ {l : List Host.Cell}, l.Pairwise (fun x y => x.1 < y.1) → l.Nodup :=
    fun hp => hp.imp (fun hxy he => by subst he; exact absurd hxy (lt_irrefl _))
  refine List.Perm.eq_of_pairwise (le := fun x y : Host.Cell => x.1 < y.1) ?_ h.1 h'.1 ?_
  · intro a b _ _ hab hba
    omega
  · exact (List.perm_ext_iff_of_nodup (nd h.1) (nd h'.1)).2
      (fun x => ⟨mem hw hw' hr x, mem hw' hw (fun a => (hr a).symm) x⟩)

end Sys2Proof.Machine
end

