-- ==== Sys2Proof/Laws/State.lean ====
section
/-! SUPPORT. One lemma per field per update of the state: what each update writes, and that it leaves the rest. -/

namespace Sys2Proof.Machine

variable (s : State)

@[simp] theorem State.fail_cfg (c : ResultCode) : (s.fail c).cfg = s.cfg := rfl
@[simp] theorem State.fail_buf (c : ResultCode) : (s.fail c).buf = s.buf := rfl
@[simp] theorem State.fail_k (c : ResultCode) : (s.fail c).k = s.k := rfl
@[simp] theorem State.fail_arg0 (c : ResultCode) : (s.fail c).arg0 = s.arg0 := rfl
@[simp] theorem State.fail_arg1 (c : ResultCode) : (s.fail c).arg1 = s.arg1 := rfl
@[simp] theorem State.fail_res (c : ResultCode) : (s.fail c).res = s.res := rfl
@[simp] theorem State.fail_code (c : ResultCode) : (s.fail c).code = c := rfl
@[simp] theorem State.fail_fault (c : ResultCode) : (s.fail c).fault = (s.fault || c.fatal) := rfl
@[simp] theorem State.fail_cvalid (c : ResultCode) : (s.fail c).cvalid = s.cvalid := rfl
@[simp] theorem State.fail_high (c : ResultCode) : (s.fail c).high = s.high := rfl
@[simp] theorem State.fail_low (c : ResultCode) : (s.fail c).low = s.low := rfl
@[simp] theorem State.fail_ks (c : ResultCode) : (s.fail c).ks = s.ks := rfl
@[simp] theorem State.fail_cur (c : ResultCode) : (s.fail c).cur = s.cur := rfl
@[simp] theorem State.fail_frm (c : ResultCode) : (s.fail c).frm = s.frm := rfl
@[simp] theorem State.fail_flen (c : ResultCode) : (s.fail c).flen = s.flen := rfl
@[simp] theorem State.fail_reply (c : ResultCode) : (s.fail c).reply = s.reply := rfl
@[simp] theorem State.fail_agenda (c : ResultCode) : (s.fail c).agenda = s.agenda := rfl
@[simp] theorem State.fail_faultReads (c : ResultCode) : (s.fail c).faultReads = s.faultReads := rfl
@[simp] theorem State.fail_resets (c : ResultCode) : (s.fail c).resets = s.resets := rfl
@[simp] theorem State.fail_phase (c : ResultCode) : (s.fail c).phase = s.phase := rfl
@[simp] theorem State.fail_callResult (c : ResultCode) : (s.fail c).callResult = s.callResult := rfl
@[simp] theorem State.fail_link (c : ResultCode) : (s.fail c).link = s.link := rfl

@[simp] theorem State.succeed_cfg : (s.succeed).cfg = s.cfg := rfl
@[simp] theorem State.succeed_buf : (s.succeed).buf = s.buf := rfl
@[simp] theorem State.succeed_k : (s.succeed).k = s.k := rfl
@[simp] theorem State.succeed_arg0 : (s.succeed).arg0 = s.arg0 := rfl
@[simp] theorem State.succeed_arg1 : (s.succeed).arg1 = s.arg1 := rfl
@[simp] theorem State.succeed_res : (s.succeed).res = s.res := rfl
@[simp] theorem State.succeed_code : (s.succeed).code = .ok := rfl
@[simp] theorem State.succeed_fault : (s.succeed).fault = s.fault := rfl
@[simp] theorem State.succeed_cvalid : (s.succeed).cvalid = s.cvalid := rfl
@[simp] theorem State.succeed_high : (s.succeed).high = s.high := rfl
@[simp] theorem State.succeed_low : (s.succeed).low = s.low := rfl
@[simp] theorem State.succeed_ks : (s.succeed).ks = s.ks := rfl
@[simp] theorem State.succeed_cur : (s.succeed).cur = s.cur := rfl
@[simp] theorem State.succeed_frm : (s.succeed).frm = s.frm := rfl
@[simp] theorem State.succeed_flen : (s.succeed).flen = s.flen := rfl
@[simp] theorem State.succeed_reply : (s.succeed).reply = s.reply := rfl
@[simp] theorem State.succeed_agenda : (s.succeed).agenda = s.agenda := rfl
@[simp] theorem State.succeed_faultReads : (s.succeed).faultReads = s.faultReads := rfl
@[simp] theorem State.succeed_resets : (s.succeed).resets = s.resets := rfl
@[simp] theorem State.succeed_phase : (s.succeed).phase = s.phase := rfl
@[simp] theorem State.succeed_callResult : (s.succeed).callResult = s.callResult := rfl
@[simp] theorem State.succeed_link : (s.succeed).link = s.link := rfl

@[simp] theorem State.setBufByte_cfg (a : Nat) (b : Byte) : (s.setBufByte a b).cfg = s.cfg := rfl
@[simp] theorem State.setBufByte_buf (a : Nat) (b : Byte) : (s.setBufByte a b).buf = Memory.write s.buf a b := rfl
@[simp] theorem State.setBufByte_k (a : Nat) (b : Byte) : (s.setBufByte a b).k = s.k := rfl
@[simp] theorem State.setBufByte_arg0 (a : Nat) (b : Byte) : (s.setBufByte a b).arg0 = s.arg0 := rfl
@[simp] theorem State.setBufByte_arg1 (a : Nat) (b : Byte) : (s.setBufByte a b).arg1 = s.arg1 := rfl
@[simp] theorem State.setBufByte_res (a : Nat) (b : Byte) : (s.setBufByte a b).res = s.res := rfl
@[simp] theorem State.setBufByte_code (a : Nat) (b : Byte) : (s.setBufByte a b).code = s.code := rfl
@[simp] theorem State.setBufByte_fault (a : Nat) (b : Byte) : (s.setBufByte a b).fault = s.fault := rfl
@[simp] theorem State.setBufByte_cvalid (a : Nat) (b : Byte) : (s.setBufByte a b).cvalid = s.cvalid := rfl
@[simp] theorem State.setBufByte_high (a : Nat) (b : Byte) : (s.setBufByte a b).high = s.high := rfl
@[simp] theorem State.setBufByte_low (a : Nat) (b : Byte) : (s.setBufByte a b).low = s.low := rfl
@[simp] theorem State.setBufByte_ks (a : Nat) (b : Byte) : (s.setBufByte a b).ks = s.ks := rfl
@[simp] theorem State.setBufByte_cur (a : Nat) (b : Byte) : (s.setBufByte a b).cur = s.cur := rfl
@[simp] theorem State.setBufByte_frm (a : Nat) (b : Byte) : (s.setBufByte a b).frm = s.frm := rfl
@[simp] theorem State.setBufByte_flen (a : Nat) (b : Byte) : (s.setBufByte a b).flen = s.flen := rfl
@[simp] theorem State.setBufByte_reply (a : Nat) (b : Byte) : (s.setBufByte a b).reply = s.reply := rfl
@[simp] theorem State.setBufByte_agenda (a : Nat) (b : Byte) : (s.setBufByte a b).agenda = s.agenda := rfl
@[simp] theorem State.setBufByte_faultReads (a : Nat) (b : Byte) : (s.setBufByte a b).faultReads = s.faultReads := rfl
@[simp] theorem State.setBufByte_resets (a : Nat) (b : Byte) : (s.setBufByte a b).resets = s.resets := rfl
@[simp] theorem State.setBufByte_phase (a : Nat) (b : Byte) : (s.setBufByte a b).phase = s.phase := rfl
@[simp] theorem State.setBufByte_callResult (a : Nat) (b : Byte) : (s.setBufByte a b).callResult = s.callResult := rfl
@[simp] theorem State.setBufByte_link (a : Nat) (b : Byte) : (s.setBufByte a b).link = s.link := rfl

@[simp] theorem State.putFrame_cfg (l o : Byte) (p : List Byte) : (s.putFrame l o p).cfg = s.cfg := by simp only [State.putFrame]
@[simp] theorem State.putFrame_buf (l o : Byte) (p : List Byte) : (s.putFrame l o p).buf = s.buf := by simp only [State.putFrame]
@[simp] theorem State.putFrame_k (l o : Byte) (p : List Byte) : (s.putFrame l o p).k = s.k := by simp only [State.putFrame]
@[simp] theorem State.putFrame_arg0 (l o : Byte) (p : List Byte) : (s.putFrame l o p).arg0 = s.arg0 := by simp only [State.putFrame]
@[simp] theorem State.putFrame_arg1 (l o : Byte) (p : List Byte) : (s.putFrame l o p).arg1 = s.arg1 := by simp only [State.putFrame]
@[simp] theorem State.putFrame_res (l o : Byte) (p : List Byte) : (s.putFrame l o p).res = s.res := by simp only [State.putFrame]
@[simp] theorem State.putFrame_code (l o : Byte) (p : List Byte) : (s.putFrame l o p).code = s.code := by simp only [State.putFrame]
@[simp] theorem State.putFrame_fault (l o : Byte) (p : List Byte) : (s.putFrame l o p).fault = s.fault := by simp only [State.putFrame]
@[simp] theorem State.putFrame_cvalid (l o : Byte) (p : List Byte) : (s.putFrame l o p).cvalid = s.cvalid := by simp only [State.putFrame]
@[simp] theorem State.putFrame_high (l o : Byte) (p : List Byte) : (s.putFrame l o p).high = s.high := by simp only [State.putFrame]
@[simp] theorem State.putFrame_low (l o : Byte) (p : List Byte) : (s.putFrame l o p).low = s.low := by simp only [State.putFrame]
@[simp] theorem State.putFrame_ks (l o : Byte) (p : List Byte) : (s.putFrame l o p).ks = s.ks := by simp only [State.putFrame]
@[simp] theorem State.putFrame_cur (l o : Byte) (p : List Byte) : (s.putFrame l o p).cur = s.cur := by simp only [State.putFrame]
@[simp] theorem State.putFrame_frm (l o : Byte) (p : List Byte) : (s.putFrame l o p).frm = frameBuffer l o p := by simp only [State.putFrame]
@[simp] theorem State.putFrame_flen (l o : Byte) (p : List Byte) : (s.putFrame l o p).flen = BitVec.ofNat 5 (2 + p.length) := by simp only [State.putFrame]
@[simp] theorem State.putFrame_reply (l o : Byte) (p : List Byte) : (s.putFrame l o p).reply = s.reply := by simp only [State.putFrame]
@[simp] theorem State.putFrame_agenda (l o : Byte) (p : List Byte) : (s.putFrame l o p).agenda = s.agenda := by simp only [State.putFrame]
@[simp] theorem State.putFrame_faultReads (l o : Byte) (p : List Byte) : (s.putFrame l o p).faultReads = s.faultReads := by simp only [State.putFrame]
@[simp] theorem State.putFrame_resets (l o : Byte) (p : List Byte) : (s.putFrame l o p).resets = s.resets := by simp only [State.putFrame]
@[simp] theorem State.putFrame_phase (l o : Byte) (p : List Byte) : (s.putFrame l o p).phase = s.phase := by simp only [State.putFrame]
@[simp] theorem State.putFrame_callResult (l o : Byte) (p : List Byte) : (s.putFrame l o p).callResult = s.callResult := by simp only [State.putFrame]
@[simp] theorem State.putFrame_link (l o : Byte) (p : List Byte) : (s.putFrame l o p).link = s.link := by simp only [State.putFrame]

@[simp] theorem State.moveFrame_cfg (key : Key) : (s.moveFrame key).cfg = s.cfg := by simp only [State.moveFrame, State.putFrame_cfg]
@[simp] theorem State.moveFrame_buf (key : Key) : (s.moveFrame key).buf = s.buf := by simp only [State.moveFrame, State.putFrame_buf]
@[simp] theorem State.moveFrame_k (key : Key) : (s.moveFrame key).k = s.k := by simp only [State.moveFrame, State.putFrame_k]
@[simp] theorem State.moveFrame_arg0 (key : Key) : (s.moveFrame key).arg0 = s.arg0 := by simp only [State.moveFrame, State.putFrame_arg0]
@[simp] theorem State.moveFrame_arg1 (key : Key) : (s.moveFrame key).arg1 = s.arg1 := by simp only [State.moveFrame, State.putFrame_arg1]
@[simp] theorem State.moveFrame_res (key : Key) : (s.moveFrame key).res = s.res := by simp only [State.moveFrame, State.putFrame_res]
@[simp] theorem State.moveFrame_code (key : Key) : (s.moveFrame key).code = s.code := by simp only [State.moveFrame, State.putFrame_code]
@[simp] theorem State.moveFrame_fault (key : Key) : (s.moveFrame key).fault = s.fault := by simp only [State.moveFrame, State.putFrame_fault]
@[simp] theorem State.moveFrame_cvalid (key : Key) : (s.moveFrame key).cvalid = s.cvalid := by simp only [State.moveFrame, State.putFrame_cvalid]
@[simp] theorem State.moveFrame_high (key : Key) : (s.moveFrame key).high = s.high := by simp only [State.moveFrame, State.putFrame_high]
@[simp] theorem State.moveFrame_low (key : Key) : (s.moveFrame key).low = s.low := by simp only [State.moveFrame, State.putFrame_low]
@[simp] theorem State.moveFrame_ks (key : Key) : (s.moveFrame key).ks = s.ks := by simp only [State.moveFrame, State.putFrame_ks]
@[simp] theorem State.moveFrame_cur (key : Key) : (s.moveFrame key).cur = s.cur := by simp only [State.moveFrame, State.putFrame_cur]
@[simp] theorem State.moveFrame_frm (key : Key) : (s.moveFrame key).frm = frameBuffer 0x0D#8 0x40#8 (movePayload s.cfg.byteOrder key s.arg0 s.arg1) := by simp only [State.moveFrame, State.putFrame_frm]
@[simp] theorem State.moveFrame_flen (key : Key) : (s.moveFrame key).flen = BitVec.ofNat 5 (2 + (movePayload s.cfg.byteOrder key s.arg0 s.arg1).length) := by simp only [State.moveFrame, State.putFrame_flen]
@[simp] theorem State.moveFrame_reply (key : Key) : (s.moveFrame key).reply = s.reply := by simp only [State.moveFrame, State.putFrame_reply]
@[simp] theorem State.moveFrame_agenda (key : Key) : (s.moveFrame key).agenda = s.agenda := by simp only [State.moveFrame, State.putFrame_agenda]
@[simp] theorem State.moveFrame_faultReads (key : Key) : (s.moveFrame key).faultReads = s.faultReads := by simp only [State.moveFrame, State.putFrame_faultReads]
@[simp] theorem State.moveFrame_resets (key : Key) : (s.moveFrame key).resets = s.resets := by simp only [State.moveFrame, State.putFrame_resets]
@[simp] theorem State.moveFrame_phase (key : Key) : (s.moveFrame key).phase = s.phase := by simp only [State.moveFrame, State.putFrame_phase]
@[simp] theorem State.moveFrame_callResult (key : Key) : (s.moveFrame key).callResult = s.callResult := by simp only [State.moveFrame, State.putFrame_callResult]
@[simp] theorem State.moveFrame_link (key : Key) : (s.moveFrame key).link = s.link := by simp only [State.moveFrame, State.putFrame_link]

@[simp] theorem State.sendFrame_cfg (f : List Byte) : (s.sendFrame f).cfg = s.cfg := rfl
@[simp] theorem State.sendFrame_buf (f : List Byte) : (s.sendFrame f).buf = s.buf := rfl
@[simp] theorem State.sendFrame_k (f : List Byte) : (s.sendFrame f).k = s.k := rfl
@[simp] theorem State.sendFrame_arg0 (f : List Byte) : (s.sendFrame f).arg0 = s.arg0 := rfl
@[simp] theorem State.sendFrame_arg1 (f : List Byte) : (s.sendFrame f).arg1 = s.arg1 := rfl
@[simp] theorem State.sendFrame_res (f : List Byte) : (s.sendFrame f).res = s.res := rfl
@[simp] theorem State.sendFrame_code (f : List Byte) : (s.sendFrame f).code = s.code := rfl
@[simp] theorem State.sendFrame_fault (f : List Byte) : (s.sendFrame f).fault = s.fault := rfl
@[simp] theorem State.sendFrame_cvalid (f : List Byte) : (s.sendFrame f).cvalid = s.cvalid := rfl
@[simp] theorem State.sendFrame_high (f : List Byte) : (s.sendFrame f).high = s.high := rfl
@[simp] theorem State.sendFrame_low (f : List Byte) : (s.sendFrame f).low = s.low := rfl
@[simp] theorem State.sendFrame_ks (f : List Byte) : (s.sendFrame f).ks = s.ks := rfl
@[simp] theorem State.sendFrame_cur (f : List Byte) : (s.sendFrame f).cur = s.cur := rfl
@[simp] theorem State.sendFrame_frm (f : List Byte) : (s.sendFrame f).frm = s.frm := rfl
@[simp] theorem State.sendFrame_flen (f : List Byte) : (s.sendFrame f).flen = s.flen := rfl
@[simp] theorem State.sendFrame_reply (f : List Byte) : (s.sendFrame f).reply = s.reply := rfl
@[simp] theorem State.sendFrame_agenda (f : List Byte) : (s.sendFrame f).agenda = s.agenda := rfl
@[simp] theorem State.sendFrame_faultReads (f : List Byte) : (s.sendFrame f).faultReads = s.faultReads := rfl
@[simp] theorem State.sendFrame_resets (f : List Byte) : (s.sendFrame f).resets = s.resets := rfl
@[simp] theorem State.sendFrame_phase (f : List Byte) : (s.sendFrame f).phase = s.phase := rfl
@[simp] theorem State.sendFrame_callResult (f : List Byte) : (s.sendFrame f).callResult = if (s.link.writeBytes f).2 then .written else .linkError := rfl
@[simp] theorem State.sendFrame_link (f : List Byte) : (s.sendFrame f).link = (s.link.writeBytes f).1 := rfl

@[simp] theorem State.answer_cfg (v : Word) : (s.answer v).cfg = s.cfg := rfl
@[simp] theorem State.answer_buf (v : Word) : (s.answer v).buf = s.buf := rfl
@[simp] theorem State.answer_k (v : Word) : (s.answer v).k = s.k := rfl
@[simp] theorem State.answer_arg0 (v : Word) : (s.answer v).arg0 = s.arg0 := rfl
@[simp] theorem State.answer_arg1 (v : Word) : (s.answer v).arg1 = s.arg1 := rfl
@[simp] theorem State.answer_res (v : Word) : (s.answer v).res = s.res := rfl
@[simp] theorem State.answer_code (v : Word) : (s.answer v).code = s.code := rfl
@[simp] theorem State.answer_fault (v : Word) : (s.answer v).fault = s.fault := rfl
@[simp] theorem State.answer_cvalid (v : Word) : (s.answer v).cvalid = s.cvalid := rfl
@[simp] theorem State.answer_high (v : Word) : (s.answer v).high = s.high := rfl
@[simp] theorem State.answer_low (v : Word) : (s.answer v).low = s.low := rfl
@[simp] theorem State.answer_ks (v : Word) : (s.answer v).ks = s.ks := rfl
@[simp] theorem State.answer_cur (v : Word) : (s.answer v).cur = s.cur := rfl
@[simp] theorem State.answer_frm (v : Word) : (s.answer v).frm = s.frm := rfl
@[simp] theorem State.answer_flen (v : Word) : (s.answer v).flen = s.flen := rfl
@[simp] theorem State.answer_reply (v : Word) : (s.answer v).reply = .data v := rfl
@[simp] theorem State.answer_agenda (v : Word) : (s.answer v).agenda = s.agenda := rfl
@[simp] theorem State.answer_faultReads (v : Word) : (s.answer v).faultReads = s.faultReads := rfl
@[simp] theorem State.answer_resets (v : Word) : (s.answer v).resets = s.resets := rfl
@[simp] theorem State.answer_phase (v : Word) : (s.answer v).phase = s.phase := rfl
@[simp] theorem State.answer_callResult (v : Word) : (s.answer v).callResult = s.callResult := rfl
@[simp] theorem State.answer_link (v : Word) : (s.answer v).link = s.link := rfl

@[simp] theorem State.noData_cfg : (s.noData).cfg = s.cfg := rfl
@[simp] theorem State.noData_buf : (s.noData).buf = s.buf := rfl
@[simp] theorem State.noData_k : (s.noData).k = s.k := rfl
@[simp] theorem State.noData_arg0 : (s.noData).arg0 = s.arg0 := rfl
@[simp] theorem State.noData_arg1 : (s.noData).arg1 = s.arg1 := rfl
@[simp] theorem State.noData_res : (s.noData).res = s.res := rfl
@[simp] theorem State.noData_code : (s.noData).code = s.code := rfl
@[simp] theorem State.noData_fault : (s.noData).fault = s.fault := rfl
@[simp] theorem State.noData_cvalid : (s.noData).cvalid = s.cvalid := rfl
@[simp] theorem State.noData_high : (s.noData).high = s.high := rfl
@[simp] theorem State.noData_low : (s.noData).low = s.low := rfl
@[simp] theorem State.noData_ks : (s.noData).ks = s.ks := rfl
@[simp] theorem State.noData_cur : (s.noData).cur = s.cur := rfl
@[simp] theorem State.noData_frm : (s.noData).frm = s.frm := rfl
@[simp] theorem State.noData_flen : (s.noData).flen = s.flen := rfl
@[simp] theorem State.noData_reply : (s.noData).reply = .none := rfl
@[simp] theorem State.noData_agenda : (s.noData).agenda = s.agenda := rfl
@[simp] theorem State.noData_faultReads : (s.noData).faultReads = s.faultReads := rfl
@[simp] theorem State.noData_resets : (s.noData).resets = s.resets := rfl
@[simp] theorem State.noData_phase : (s.noData).phase = s.phase := rfl
@[simp] theorem State.noData_callResult : (s.noData).callResult = s.callResult := rfl
@[simp] theorem State.noData_link : (s.noData).link = s.link := rfl

@[simp] theorem State.faultingRead_cfg : (s.faultingRead).cfg = s.cfg := by simp only [State.faultingRead, State.fail_cfg]
@[simp] theorem State.faultingRead_buf : (s.faultingRead).buf = s.buf := by simp only [State.faultingRead, State.fail_buf]
@[simp] theorem State.faultingRead_k : (s.faultingRead).k = s.k := by simp only [State.faultingRead, State.fail_k]
@[simp] theorem State.faultingRead_arg0 : (s.faultingRead).arg0 = s.arg0 := by simp only [State.faultingRead, State.fail_arg0]
@[simp] theorem State.faultingRead_arg1 : (s.faultingRead).arg1 = s.arg1 := by simp only [State.faultingRead, State.fail_arg1]
@[simp] theorem State.faultingRead_res : (s.faultingRead).res = s.res := by simp only [State.faultingRead, State.fail_res]
@[simp] theorem State.faultingRead_code : (s.faultingRead).code = .accessFault := by simp only [State.faultingRead, State.fail_code]
@[simp] theorem State.faultingRead_fault : (s.faultingRead).fault = true := by
  simp only [State.faultingRead, State.fail_fault, ResultCode.fatal, Bool.or_true]
@[simp] theorem State.faultingRead_cvalid : (s.faultingRead).cvalid = s.cvalid := by simp only [State.faultingRead, State.fail_cvalid]
@[simp] theorem State.faultingRead_high : (s.faultingRead).high = s.high := by simp only [State.faultingRead, State.fail_high]
@[simp] theorem State.faultingRead_low : (s.faultingRead).low = s.low := by simp only [State.faultingRead, State.fail_low]
@[simp] theorem State.faultingRead_ks : (s.faultingRead).ks = s.ks := by simp only [State.faultingRead, State.fail_ks]
@[simp] theorem State.faultingRead_cur : (s.faultingRead).cur = s.cur := by simp only [State.faultingRead, State.fail_cur]
@[simp] theorem State.faultingRead_frm : (s.faultingRead).frm = s.frm := by simp only [State.faultingRead, State.fail_frm]
@[simp] theorem State.faultingRead_flen : (s.faultingRead).flen = s.flen := by simp only [State.faultingRead, State.fail_flen]
@[simp] theorem State.faultingRead_reply : (s.faultingRead).reply = .data (Config.faultReadData s.faultReads) := by simp only [State.faultingRead]
@[simp] theorem State.faultingRead_agenda : (s.faultingRead).agenda = s.agenda := by simp only [State.faultingRead, State.fail_agenda]
@[simp] theorem State.faultingRead_faultReads : (s.faultingRead).faultReads = s.faultReads + 1 := by simp only [State.faultingRead]
@[simp] theorem State.faultingRead_resets : (s.faultingRead).resets = s.resets := by simp only [State.faultingRead, State.fail_resets]
@[simp] theorem State.faultingRead_phase : (s.faultingRead).phase = s.phase := by simp only [State.faultingRead, State.fail_phase]
@[simp] theorem State.faultingRead_callResult : (s.faultingRead).callResult = s.callResult := by simp only [State.faultingRead, State.fail_callResult]
@[simp] theorem State.faultingRead_link : (s.faultingRead).link = s.link := by simp only [State.faultingRead, State.fail_link]

@[simp] theorem State.faultingWrite_cfg : (s.faultingWrite).cfg = s.cfg := by simp only [State.faultingWrite, State.fail_cfg]
@[simp] theorem State.faultingWrite_buf : (s.faultingWrite).buf = s.buf := by simp only [State.faultingWrite, State.fail_buf]
@[simp] theorem State.faultingWrite_k : (s.faultingWrite).k = s.k := by simp only [State.faultingWrite, State.fail_k]
@[simp] theorem State.faultingWrite_arg0 : (s.faultingWrite).arg0 = s.arg0 := by simp only [State.faultingWrite, State.fail_arg0]
@[simp] theorem State.faultingWrite_arg1 : (s.faultingWrite).arg1 = s.arg1 := by simp only [State.faultingWrite, State.fail_arg1]
@[simp] theorem State.faultingWrite_res : (s.faultingWrite).res = s.res := by simp only [State.faultingWrite, State.fail_res]
@[simp] theorem State.faultingWrite_code : (s.faultingWrite).code = .accessFault := by simp only [State.faultingWrite, State.fail_code]
@[simp] theorem State.faultingWrite_fault : (s.faultingWrite).fault = true := by
  simp only [State.faultingWrite, State.fail_fault, ResultCode.fatal, Bool.or_true]
@[simp] theorem State.faultingWrite_cvalid : (s.faultingWrite).cvalid = s.cvalid := by simp only [State.faultingWrite, State.fail_cvalid]
@[simp] theorem State.faultingWrite_high : (s.faultingWrite).high = s.high := by simp only [State.faultingWrite, State.fail_high]
@[simp] theorem State.faultingWrite_low : (s.faultingWrite).low = s.low := by simp only [State.faultingWrite, State.fail_low]
@[simp] theorem State.faultingWrite_ks : (s.faultingWrite).ks = s.ks := by simp only [State.faultingWrite, State.fail_ks]
@[simp] theorem State.faultingWrite_cur : (s.faultingWrite).cur = s.cur := by simp only [State.faultingWrite, State.fail_cur]
@[simp] theorem State.faultingWrite_frm : (s.faultingWrite).frm = s.frm := by simp only [State.faultingWrite, State.fail_frm]
@[simp] theorem State.faultingWrite_flen : (s.faultingWrite).flen = s.flen := by simp only [State.faultingWrite, State.fail_flen]
@[simp] theorem State.faultingWrite_reply : (s.faultingWrite).reply = .none := by simp only [State.faultingWrite]
@[simp] theorem State.faultingWrite_agenda : (s.faultingWrite).agenda = s.agenda := by simp only [State.faultingWrite, State.fail_agenda]
@[simp] theorem State.faultingWrite_faultReads : (s.faultingWrite).faultReads = s.faultReads := by simp only [State.faultingWrite, State.fail_faultReads]
@[simp] theorem State.faultingWrite_resets : (s.faultingWrite).resets = s.resets := by simp only [State.faultingWrite, State.fail_resets]
@[simp] theorem State.faultingWrite_phase : (s.faultingWrite).phase = s.phase := by simp only [State.faultingWrite, State.fail_phase]
@[simp] theorem State.faultingWrite_callResult : (s.faultingWrite).callResult = s.callResult := by simp only [State.faultingWrite, State.fail_callResult]
@[simp] theorem State.faultingWrite_link : (s.faultingWrite).link = s.link := by simp only [State.faultingWrite, State.fail_link]

@[simp] theorem State.resetEvent_cfg : (s.resetEvent).cfg = s.cfg := rfl
@[simp] theorem State.resetEvent_buf : (s.resetEvent).buf = Memory.ofBytes (Config.resetByte s.resets) s.cfg.bufBytes := rfl
@[simp] theorem State.resetEvent_k : (s.resetEvent).k = ⟨Config.resetWord s.resets 12, Config.resetWord s.resets 13, Config.resetWord s.resets 14, Config.resetWord s.resets 15⟩ := rfl
@[simp] theorem State.resetEvent_arg0 : (s.resetEvent).arg0 = Config.resetWord s.resets 2 := rfl
@[simp] theorem State.resetEvent_arg1 : (s.resetEvent).arg1 = Config.resetWord s.resets 3 := rfl
@[simp] theorem State.resetEvent_res : (s.resetEvent).res = 0 := rfl
@[simp] theorem State.resetEvent_code : (s.resetEvent).code = .ok := rfl
@[simp] theorem State.resetEvent_fault : (s.resetEvent).fault = false := rfl
@[simp] theorem State.resetEvent_cvalid : (s.resetEvent).cvalid = false := rfl
@[simp] theorem State.resetEvent_high : (s.resetEvent).high = Config.resetWord s.resets 6 := rfl
@[simp] theorem State.resetEvent_low : (s.resetEvent).low = Config.resetWord s.resets 7 := rfl
@[simp] theorem State.resetEvent_ks : (s.resetEvent).ks = Vector.ofFn fun i => Config.resetKs s.resets i.val := rfl
@[simp] theorem State.resetEvent_cur : (s.resetEvent).cur = (Config.resetWord s.resets 8).setWidth 4 := rfl
@[simp] theorem State.resetEvent_frm : (s.resetEvent).frm = Vector.replicate 16 0 := rfl
@[simp] theorem State.resetEvent_flen : (s.resetEvent).flen = 0 := rfl
@[simp] theorem State.resetEvent_reply : (s.resetEvent).reply = .none := rfl
@[simp] theorem State.resetEvent_agenda : (s.resetEvent).agenda = s.agenda := rfl
@[simp] theorem State.resetEvent_faultReads : (s.resetEvent).faultReads = s.faultReads := rfl
@[simp] theorem State.resetEvent_resets : (s.resetEvent).resets = s.resets + 1 := rfl
@[simp] theorem State.resetEvent_phase : (s.resetEvent).phase = s.phase := rfl
@[simp] theorem State.resetEvent_callResult : (s.resetEvent).callResult = s.callResult := rfl
@[simp] theorem State.resetEvent_link : (s.resetEvent).link = s.link := rfl

end Sys2Proof.Machine
end

