-- ==== Sys2Proof/Laws/Ops.lean ====
section
/-! SUPPORT. One lemma for each shared operation that says what it can do: byte order, BUF and VEC, the counter unit, the
stream, the frame buffer and the link. -/

namespace Sys2Proof

theorem bytesOfWord_length (o : ByteOrder) (w : Word) : (bytesOfWord o w).length = 4 := by
  cases o <;> rfl

theorem bytesOfWords_length (o : ByteOrder) (ws : List Word) : (bytesOfWords o ws).length = 4 * ws.length := by
  induction ws with
  | nil => rfl
  | cons w ws ih =>
    simp only [bytesOfWords, List.flatMap_cons, List.length_append, bytesOfWord_length] at *
    simp only [ih, List.length_cons]
    omega

/-- Bytes of a word put together again are the word (R9, R43, R44). -/
theorem wordOfBytes_bytesOfWord (o : ByteOrder) (w : Word) :
    wordOfBytes o ((bytesOfWord o w).getD 0 0) ((bytesOfWord o w).getD 1 0) ((bytesOfWord o w).getD 2 0)
      ((bytesOfWord o w).getD 3 0) = w := by
  cases o <;>
  · simp only [wordOfBytes, bytesOfWord, List.getD_cons_zero, List.getD_cons_succ]
    apply BitVec.eq_of_getLsbD_eq
    intro i hi
    simp only [BitVec.getLsbD_append, BitVec.getLsbD_extractLsb']
    rcases lt_or_ge i 8 with h8 | h8
    · simp [h8]
    · rcases lt_or_ge i 16 with h16 | h16
      · simp [show ¬ i < 8 by omega, show i - 8 < 8 by omega, show 8 + (i - 8) = i by omega]
      · rcases lt_or_ge i 24 with h24 | h24
        · simp [show ¬ i < 8 by omega, show ¬ i - 8 < 8 by omega, show i - 8 - 8 < 8 by omega,
            show 16 + (i - 8 - 8) = i by omega]
        · simp [show ¬ i < 8 by omega, show ¬ i - 8 < 8 by omega, show ¬ i - 8 - 8 < 8 by omega,
            show i - 8 - 8 - 8 < 8 by omega, show 24 + (i - 8 - 8 - 8) = i by omega]

namespace Cipher

/-- The key selector of a round as a number: `e = (sum >> 2) & 3` (R102). -/
theorem keySel_eq (sum : Word) : keySel sum = BitVec.ofNat 2 (sum.toNat / 4 % 4) := by
  apply BitVec.eq_of_toNat_eq
  simp [keySel, Nat.shiftRight_eq_div_pow]

theorem encodeStep_length (key : Key) (sum : Word) (p : Nat) (y : Word) (st : List Word × Word) :
    (encodeStep key sum p y st).1.length = st.1.length := by simp [encodeStep]

theorem decodeStep_length (key : Key) (sum : Word) (p : Nat) (z : Word) (st : List Word × Word) :
    (decodeStep key sum p z st).1.length = st.1.length := by simp [decodeStep]

/-- A fold of updates that each keep the length of `W` keeps it. -/
theorem foldl_length (f : List Word × Word → Nat → List Word × Word)
    (hf : ∀ st p, (f st p).1.length = st.1.length) (ps : List Nat) (st : List Word × Word) :
    (ps.foldl f st).1.length = st.1.length := by
  induction ps generalizing st with
  | nil => rfl
  | cons p ps ih => rw [List.foldl_cons, ih, hf]

theorem encodeRound_length (n : Nat) (key : Key) (sum : Word) (st : List Word × Word) :
    (encodeRound n key sum st).1.length = st.1.length := by
  simp only [encodeRound, encodeStep_length]
  exact foldl_length _ (fun _ _ => encodeStep_length ..) _ _

theorem decodeRound_length (n : Nat) (key : Key) (sum : Word) (st : List Word × Word) :
    (decodeRound n key sum st).1.length = st.1.length := by
  simp only [decodeRound, decodeStep_length]
  exact foldl_length _ (fun _ _ => decodeStep_length ..) _ _

theorem encodeLoop_length (n : Nat) (key : Key) (q : Nat) (sum : Word) (st : List Word × Word) :
    (encodeLoop n key q sum st).1.length = st.1.length := by
  induction q generalizing sum st with
  | zero => rfl
  | succ q ih => rw [encodeLoop, ih, encodeRound_length]

theorem decodeLoop_length (n : Nat) (key : Key) (q : Nat) (sum : Word) (st : List Word × Word) :
    (decodeLoop n key q sum st).1.length = st.1.length := by
  induction q generalizing sum st with
  | zero => rfl
  | succ q ih =>
    rw [decodeLoop]
    split
    · rfl
    · rw [ih, decodeRound_length]

/-- `Encode` keeps the length of its array. -/
@[simp] theorem encode_length (ws : List Word) (n : Nat) (key : Key) : (encode ws n key).length = ws.length :=
  encodeLoop_length ..

/-- `Decode` keeps the length of its array. -/
@[simp] theorem decode_length (ws : List Word) (n : Nat) (key : Key) : (decode ws n key).length = ws.length :=
  decodeLoop_length ..

end Cipher

namespace Machine

variable (s : State)

/-- Writing bytes to BUF changes BUF only. -/
theorem State.setBufBytes_eq (a : Nat) (bs : List Byte) :
    s.setBufBytes a bs = { s with buf := (s.setBufBytes a bs).buf } := by
  induction bs generalizing s a with
  | nil => rfl
  | cons b bs ih => rw [State.setBufBytes, ih]; rfl

theorem State.setVecWord_eq (i : Nat) (w : Word) : s.setVecWord i w = { s with buf := (s.setVecWord i w).buf } :=
  State.setBufBytes_eq ..

theorem State.storeVecFrom_eq (i : Nat) (ws : List Word) :
    s.storeVecFrom i ws = { s with buf := (s.storeVecFrom i ws).buf } := by
  induction ws generalizing s i with
  | nil => rfl
  | cons w ws ih => rw [State.storeVecFrom, ih, State.setVecWord_eq]

/-- Writing words to VEC changes BUF only. -/
theorem State.storeVec_eq (ws : List Word) : s.storeVec ws = { s with buf := (s.storeVec ws).buf } :=
  State.storeVecFrom_eq ..

theorem State.encodeVec_eq (n : Nat) : s.encodeVec n = { s with buf := (s.encodeVec n).buf } :=
  State.storeVec_eq ..

theorem State.decodeVec_eq (n : Nat) : s.decodeVec n = { s with buf := (s.decodeVec n).buf } :=
  State.storeVec_eq ..

/-- Writing bytes to BUF keeps its canonical form. -/
theorem State.setBufBytes_wf (a : Nat) (bs : List Byte) (h : Memory.wf s.buf) : Memory.wf (s.setBufBytes a bs).buf := by
  induction bs generalizing s a with
  | nil => exact h
  | cons b bs ih => exact ih _ _ (Memory.write_wf _ _ _ h)

/-- What BUF reads as after bytes are written from address `a` on. -/
theorem State.setBufBytes_bufByte (a : Nat) (bs : List Byte) (h : Memory.wf s.buf) (x : Nat) :
    (s.setBufBytes a bs).bufByte x =
      if a ≤ x ∧ x < a + bs.length then bs.getD (x - a) 0 else s.bufByte x := by
  induction bs generalizing s a with
  | nil => simp [State.setBufBytes]
  | cons b bs ih =>
    rw [State.setBufBytes, ih _ _ (Memory.write_wf _ _ _ h)]
    by_cases hx : x = a
    · subst hx
      simp [State.bufByte, Memory.read_write_same _ h]
    · have hb : (s.setBufByte a b).bufByte x = s.bufByte x := Memory.read_write_other _ h _ _ _ hx
      rw [hb, List.length_cons]
      by_cases h1 : a + 1 ≤ x ∧ x < a + 1 + bs.length
      · rw [if_pos h1, if_pos (by omega), show x - a = (x - (a + 1)) + 1 by omega, List.getD_cons_succ]
      · rw [if_neg h1, if_neg (by omega)]

theorem State.setVecWord_wf (i : Nat) (w : Word) (h : Memory.wf s.buf) : Memory.wf (s.setVecWord i w).buf :=
  State.setBufBytes_wf _ _ _ h

theorem State.storeVecFrom_wf (i : Nat) (ws : List Word) (h : Memory.wf s.buf) :
    Memory.wf (s.storeVecFrom i ws).buf := by
  induction ws generalizing s i with
  | nil => exact h
  | cons w ws ih => exact ih _ _ (State.setVecWord_wf _ _ _ h)

/-- Writing words to VEC keeps BUF's canonical form. -/
theorem State.storeVec_wf (ws : List Word) (h : Memory.wf s.buf) : Memory.wf (s.storeVec ws).buf :=
  State.storeVecFrom_wf _ _ _ h

@[simp] theorem State.setVecWord_cfg (i : Nat) (w : Word) : (s.setVecWord i w).cfg = s.cfg := by
  rw [State.setVecWord_eq]

/-- A word written to VEC changes the four bytes of that word only. -/
theorem State.setVecWord_bufByte (i : Nat) (w : Word) (h : Memory.wf s.buf) (x : Nat) :
    (s.setVecWord i w).bufByte x =
      if 4 * i ≤ x ∧ x < 4 * i + 4 then (bytesOfWord s.cfg.byteOrder w).getD (x - 4 * i) 0 else s.bufByte x := by
  rw [State.setVecWord, State.setBufBytes_bufByte _ _ _ h, bytesOfWord_length]

/-- A word written to VEC reads back (R43). -/
theorem State.setVecWord_vecWord (i j : Nat) (w : Word) (h : Memory.wf s.buf) :
    (s.setVecWord i w).vecWord j = if j = i then w else s.vecWord j := by
  simp only [State.vecWord, State.setVecWord_bufByte _ _ _ h, State.setVecWord_cfg]
  by_cases hj : j = i
  · subst hj
    simp only [show 4 * j ≤ 4 * j ∧ 4 * j < 4 * j + 4 by omega, show 4 * j ≤ 4 * j + 1 ∧ 4 * j + 1 < 4 * j + 4 by omega,
      show 4 * j ≤ 4 * j + 2 ∧ 4 * j + 2 < 4 * j + 4 by omega, show 4 * j ≤ 4 * j + 3 ∧ 4 * j + 3 < 4 * j + 4 by omega,
      if_true, Nat.sub_self, Nat.add_sub_cancel_left, and_self]
    exact wordOfBytes_bytesOfWord _ _
  · rw [if_neg (by omega), if_neg (by omega), if_neg (by omega), if_neg (by omega), if_neg hj]

/-- What VEC reads as after words are written from index `i` on. -/
theorem State.storeVecFrom_vecWord (i : Nat) (ws : List Word) (h : Memory.wf s.buf) (j : Nat) :
    (s.storeVecFrom i ws).vecWord j =
      if i ≤ j ∧ j < i + ws.length then ws.getD (j - i) 0 else s.vecWord j := by
  induction ws generalizing s i with
  | nil => simp [State.storeVecFrom]
  | cons w ws ih =>
    rw [State.storeVecFrom, ih _ _ (State.setVecWord_wf _ _ _ h), State.setVecWord_vecWord _ _ _ _ h, List.length_cons]
    by_cases hj : j = i
    · subst hj; simp
    · rw [if_neg hj]
      by_cases h1 : i + 1 ≤ j ∧ j < i + 1 + ws.length
      · rw [if_pos h1, if_pos (by omega), show j - i = (j - (i + 1)) + 1 by omega, List.getD_cons_succ]
      · rw [if_neg h1, if_neg (by omega)]

/-- What VEC reads as after `VEC[0 .. ws.length-1] <- ws`. -/
theorem State.storeVec_vecWord (ws : List Word) (h : Memory.wf s.buf) (j : Nat) :
    (s.storeVec ws).vecWord j = if j < ws.length then ws.getD j 0 else s.vecWord j := by
  rw [State.storeVec, State.storeVecFrom_vecWord _ _ _ h]
  simp

/-- Bytes at or above the words written keep their values. -/
theorem State.storeVecFrom_bufByte (i : Nat) (ws : List Word) (h : Memory.wf s.buf) (x : Nat)
    (hx : x < 4 * i ∨ 4 * (i + ws.length) ≤ x) : (s.storeVecFrom i ws).bufByte x = s.bufByte x := by
  induction ws generalizing s i with
  | nil => rfl
  | cons w ws ih =>
    rw [List.length_cons] at hx
    rw [State.storeVecFrom, ih _ _ (State.setVecWord_wf _ _ _ h) (by omega), State.setVecWord_bufByte _ _ _ h,
      if_neg (by omega)]

theorem State.storeVec_bufByte (ws : List Word) (h : Memory.wf s.buf) (x : Nat) (hx : 4 * ws.length ≤ x) :
    (s.storeVec ws).bufByte x = s.bufByte x :=
  State.storeVecFrom_bufByte _ _ _ h _ (.inr (by omega))

@[simp] theorem State.loadVec_length (n : Nat) : (s.loadVec n).length = n := by simp [State.loadVec]

theorem State.loadVec_getD (n i : Nat) (h : i < n) : (s.loadVec n).getD i 0 = s.vecWord i := by
  simp [State.loadVec, h]

/-- `Regen()` writes KS, `HIGH`, `LOW` and `CUR` only (R131). -/
theorem State.regen_eq : s.regen =
    { s with ks := s.regen.ks, high := s.regen.high, low := s.regen.low, cur := s.regen.cur } := by
  unfold State.regen
  split <;> rfl

@[simp] theorem State.regen_ks : s.regen.ks = keystreamBlock s.cfg.byteOrder s.cfg.keyCtr s.high s.low := by
  unfold State.regen
  split <;> rfl

@[simp] theorem State.regen_cur : s.regen.cur = 0 := rfl

@[simp] theorem State.regen_low : s.regen.low = s.low + 1 := by
  unfold State.regen
  split
  · simp [*]
  · rfl

theorem State.regen_high : s.regen.high = if s.low = 0xFFFFFFFF#32 then s.high + 1 else s.high := by
  unfold State.regen
  split <;> rfl

/-- `NextByte()` writes KS, `HIGH`, `LOW` and `CUR` only (R135). -/
theorem State.nextByte_eq : s.nextByte.2 =
    { s with ks := s.nextByte.2.ks, high := s.nextByte.2.high, low := s.nextByte.2.low, cur := s.nextByte.2.cur } := by
  unfold State.nextByte
  split
  · rw [State.regen_eq]
  · rfl

/-- Setting the counter writes KS, `HIGH`, `LOW`, `CUR` and `CVALID` only (R132). -/
theorem State.initCounter_eq (iv : Word) : s.initCounter iv =
    { s with ks := (s.initCounter iv).ks, high := (s.initCounter iv).high, low := (s.initCounter iv).low,
             cur := 0, cvalid := true } := by
  unfold State.initCounter
  rw [State.regen_eq]
  simp only [State.regen_cur]

/-- XORing the stream into BUF writes BUF, KS, `HIGH`, `LOW` and `CUR` only (R136). -/
theorem State.xorStream_eq (a n : Nat) : s.xorStream a n =
    { s with buf := (s.xorStream a n).buf, ks := (s.xorStream a n).ks, high := (s.xorStream a n).high,
             low := (s.xorStream a n).low, cur := (s.xorStream a n).cur } := by
  induction n generalizing s a with
  | zero => rfl
  | succ n ih =>
    rw [State.xorStream]
    rw [ih, State.nextByte_eq]
    rfl

/-- `NextByte()` neither reads nor writes BUF (R138 (c)). -/
theorem State.nextByte_buf (m : List Host.Cell) :
    ({ s with buf := m } : State).nextByte = (s.nextByte.1, { s.nextByte.2 with buf := m }) := by
  simp only [State.nextByte, State.ksByte]
  split
  · simp only [State.regen]
    split <;> rfl
  · rfl

/-- Taking keystream bytes neither reads nor writes BUF. -/
theorem State.takeBytes_buf (m : List Host.Cell) (n : Nat) :
    ({ s with buf := m } : State).takeBytes n = ((s.takeBytes n).1, { (s.takeBytes n).2 with buf := m }) := by
  induction n generalizing s with
  | zero => rfl
  | succ n ih =>
    simp only [State.takeBytes, State.nextByte_buf]
    rw [ih]

theorem State.takeBytes_length (n : Nat) : (s.takeBytes n).1.length = n := by
  induction n generalizing s with
  | zero => rfl
  | succ n ih => simp [State.takeBytes, ih]

/-- Taking keystream bytes writes KS, `HIGH`, `LOW` and `CUR` only. -/
theorem State.takeBytes_eq (n : Nat) : (s.takeBytes n).2 =
    { s with ks := (s.takeBytes n).2.ks, high := (s.takeBytes n).2.high, low := (s.takeBytes n).2.low,
             cur := (s.takeBytes n).2.cur } := by
  induction n generalizing s with
  | zero => rfl
  | succ n ih =>
    simp only [State.takeBytes]
    rw [ih, State.nextByte_eq]

/-- XORing the stream leaves the counter unit as taking that many bytes does (R136: it "consumes exactly `LEN` keystream
bytes"). -/
theorem State.xorStream_counter (a n : Nat) :
    s.xorStream a n = { (s.takeBytes n).2 with buf := (s.xorStream a n).buf } := by
  induction n generalizing s a with
  | zero => rfl
  | succ n ih =>
    simp only [State.xorStream, State.takeBytes]
    rw [ih]
    simp only [State.setBufByte]
    rw [State.takeBytes_buf]

/-- What BUF reads as after the stream is XORed into it from address `a` on (R136). -/
theorem State.xorStream_bufByte (a n : Nat) (h : Memory.wf s.buf) (x : Nat) :
    (s.xorStream a n).bufByte x =
      if a ≤ x ∧ x < a + n then s.bufByte x ^^^ (s.takeBytes n).1.getD (x - a) 0 else s.bufByte x := by
  induction n generalizing s a with
  | zero => simp [State.xorStream]
  | succ n ih =>
    have hb : s.nextByte.2.buf = s.buf := by rw [State.nextByte_eq]
    have hw : Memory.wf s.nextByte.2.buf := by rw [hb]; exact h
    have hr : ∀ y, s.nextByte.2.bufByte y = s.bufByte y := by intro y; simp only [State.bufByte, hb]
    simp only [State.xorStream, State.takeBytes]
    rw [ih _ _ (Memory.write_wf _ _ _ hw)]
    have ht : ∀ m : List Host.Cell, (({ s.nextByte.2 with buf := m } : State).takeBytes n).1 = (s.nextByte.2.takeBytes n).1 := by
      intro m; rw [State.takeBytes_buf]
    simp only [State.setBufByte, ht]
    by_cases hx : x = a
    · subst hx
      simp [State.bufByte, hb, Memory.read_write_same _ h]
    · have h2 : ({ s.nextByte.2 with buf := Memory.write s.nextByte.2.buf a (s.nextByte.2.bufByte a ^^^ s.nextByte.1) } : State).bufByte x
          = s.bufByte x := by
        rw [← hr x]; exact Memory.read_write_other _ hw _ _ _ hx
      rw [h2]
      by_cases h1 : a + 1 ≤ x ∧ x < a + 1 + n
      · rw [if_pos h1, if_pos (by omega), show x - a = (x - (a + 1)) + 1 by omega, List.getD_cons_succ]
      · rw [if_neg h1, if_neg (by omega)]

/-- XORing the stream keeps BUF's canonical form. -/
theorem State.xorStream_wf (a n : Nat) (h : Memory.wf s.buf) : Memory.wf (s.xorStream a n).buf := by
  induction n generalizing s a with
  | zero => exact h
  | succ n ih =>
    simp only [State.xorStream]
    apply ih
    apply Memory.write_wf
    rw [State.nextByte_eq]
    exact h

/-- `PutFrame` leaves the frame and then zeros (R150). -/
theorem frameBuffer_getD (l o : Byte) (p : List Byte) (i : Nat) (h : i < 16) :
    (frameBuffer l o p).toList.getD i 0 = (l :: o :: p).getD i 0 := by
  simp [frameBuffer, h]

/-- A link that is open and accepts enough takes a whole frame, in frame order (R178). -/
theorem Link.writeBytes_all (l : Link) (bs : List Byte) (ho : l.handle.isSome)
    (ha : ∀ n, l.accepts = some n → bs.length ≤ n) :
    l.writeBytes bs = ({ l with tx := l.tx ++ bs, accepts := l.accepts.map (· - bs.length) }, true) := by
  induction bs generalizing l with
  | nil => cases h : l.accepts <;> simp [Link.writeBytes, ← h]
  | cons b bs ih =>
    have ht : l.takes = true := by
      simp only [Link.takes, ho, Bool.true_and, decide_eq_true_eq]
      intro h0
      have := ha 0 h0
      simp at this
    rw [Link.writeBytes, if_pos ht, ih]
    · cases h : l.accepts with
      | none => simp [Link.writeByte, h]
      | some n => simp [Link.writeByte, h]; omega
    · exact ho
    · intro n hn
      simp only [Link.writeByte] at hn
      cases h : l.accepts with
      | none => simp [h] at hn
      | some m =>
        have := ha m h
        simp only [h, Option.map_some, Option.some.injEq, List.length_cons] at hn this
        omega

/-- Reading as many bytes as are buffered reads them all (R171, R179). -/
@[simp] theorem Link.read_buffered (l : Link) : l.read l.bufferedReadCount = (l.rx, { l with rx := [] }) := by
  simp [Link.read, Link.bufferedReadCount]

/-- The end of a wait (R179), in one equation. -/
theorem State.endWait_eq (s : State) (p : Pending) : s.endWait p =
    if 1 < s.link.rx.length then
      { s with phase := .connected, callResult := replyResult p s.link.rx, link := { s.link with rx := [] } }
    else { s with phase := .connected, callResult := replyResult p [] } := by
  simp only [State.endWait, Link.read_buffered]
  rfl

/-- The settings of `connect()` (R171, R173): all made, or none where configuring does not work. -/
theorem Link.configure_eq (l : Link) : l.configure =
    if l.configures then
      some { l with settings := ⟨some Config.baudRate, some Config.linkTimeouts, some ⟨8, 0, 1⟩⟩ }
    else none := by
  cases h : l.configures <;> simp [Link.configure, Link.setBaudRate, Link.setTimeouts, Link.setDataFraming, h]

/-- Everything `connect()` can do (R173, R182). -/
theorem State.connect_eq (s : State) : s.connect =
    if s.link.devices = 0 then { s with callResult := .noDevice }
    else if s.link.configures then
      { s with phase := .connected, callResult := .connected,
               link := { s.link with handle := some 0, settings :=
                 ⟨some Config.baudRate, some Config.linkTimeouts, some ⟨8, 0, 1⟩⟩ } }
    else { s with callResult := .linkConfigurationError,
                  link := { s.link with handle := none, settings := LinkSettings.unset } } := by
  cases hd : s.link.devices with
  | zero => simp [State.connect, Link.listDevices, hd]
  | succ n =>
    simp only [State.connect, Link.listDevices, hd, List.range_succ_eq_map, Link.configure_eq]
    cases hc : s.link.configures <;> simp [Link.openDevice, Link.close, hc, hd]

/-- With the host free to act the next event is the agenda's first. -/
theorem State.takeEvent_free (s : State) (h : s.phase.blocksHost = false) :
    s.takeEvent = s.agenda.head?.map fun e => (e, { s with agenda := s.agenda.tail }) := by
  unfold State.takeEvent
  cases hs : s.agenda <;> simp [h]

/-- Events of the host's own before the outside's first are passed over and stay. -/
theorem takeOutside_append (own rest : List Event) (e : Event) (ho : ∀ o ∈ own, fromOutside o = false)
    (he : fromOutside e = true) : takeOutside (own ++ e :: rest) = some (e, own ++ rest) := by
  induction own with
  | nil => simp [takeOutside, he]
  | cons o own ih =>
    simp only [List.mem_cons, forall_eq_or_imp] at ho
    simp [takeOutside, ho.1, ih ho.2]

/-- With no event of the outside's there is none to take. -/
theorem takeOutside_none (es : List Event) (h : ∀ o ∈ es, fromOutside o = false) : takeOutside es = none := by
  induction es with
  | nil => rfl
  | cons o es ih =>
    simp only [List.mem_cons, forall_eq_or_imp] at h
    simp [takeOutside, h.1, ih h.2]

/-- What taking an event does to the state: the agenda changes and nothing else. -/
theorem State.takeEvent_state (s u : State) (e : Event) (h : s.takeEvent = some (e, u)) :
    u = { s with agenda := u.agenda } := by
  unfold State.takeEvent at h
  split at h
  · simp only [Option.map_eq_some_iff, Prod.mk.injEq] at h
    obtain ⟨_, _, _, rfl⟩ := h
    rfl
  · split at h
    · cases h
    · simp only [Option.some.injEq, Prod.mk.injEq] at h
      obtain ⟨_, rfl⟩ := h
      rfl

end Machine

end Sys2Proof
end

