-- ==== Sys2Proof/Laws/PerInstr.lean ====
section
/-! SUPPORT. A family of facts about every instruction as syntax: what its encoding looks like. -/

namespace Sys2Proof.Laws.EncodingShape

/-- A command word's `Z` field is 0 (R70); a frame has 5 or 14 bytes, and its first counts the bytes after it (R74). -/
def Statement (i : Instr) : Prop :=
  i.wf = true →
    match encode i with
    | .cmd w => i.isCommand = true ∧ zField w = 0
    | .frame bs => i.isCommand = false ∧ (bs.length = 5 ∨ bs.length = 14) ∧ bs.length = (bs.getD 0 0).toNat + 1

/-- The `Z` field of a command word built from an operation code and an immediate. -/
theorem zField_cmdWord (op : BitVec 8) (imm : BitVec 16) : zField (cmdWord op imm) = 0 := by
  apply BitVec.eq_of_getLsbD_eq
  intro j hj
  simp only [zField, cmdWord, BitVec.getLsbD_extractLsb', BitVec.getLsbD_append]
  simp [show ¬ 24 + j < 8 by omega, show ¬ 24 + j - 8 < 16 by omega]

theorem xform (n : Int) : Statement (.xform n) := fun _ => ⟨rfl, zField_cmdWord ..⟩
theorem encb (len : Nat) : Statement (.encb len) := fun _ => ⟨rfl, zField_cmdWord ..⟩
theorem decb (len : Nat) : Statement (.decb len) := fun _ => ⟨rfl, zField_cmdWord ..⟩
theorem ctrinit0 : Statement .ctrinit0 := fun _ => ⟨rfl, zField_cmdWord ..⟩
theorem ctrinit : Statement .ctrinit := fun _ => ⟨rfl, zField_cmdWord ..⟩
theorem ctrregen : Statement .ctrregen := fun _ => ⟨rfl, zField_cmdWord ..⟩
theorem ctrnext : Statement .ctrnext := fun _ => ⟨rfl, zField_cmdWord ..⟩
theorem ctrxor (len : Nat) : Statement (.ctrxor len) := fun _ => ⟨rfl, zField_cmdWord ..⟩
theorem frqry : Statement .frqry := fun _ => ⟨rfl, zField_cmdWord ..⟩
theorem frstart : Statement .frstart := fun _ => ⟨rfl, zField_cmdWord ..⟩
theorem frstop : Statement .frstop := fun _ => ⟨rfl, zField_cmdWord ..⟩
theorem frmvu : Statement .frmvu := fun _ => ⟨rfl, zField_cmdWord ..⟩
theorem frmvd : Statement .frmvd := fun _ => ⟨rfl, zField_cmdWord ..⟩
theorem wireQueryMatLoaded : Statement .wireQueryMatLoaded := fun _ => ⟨rfl, .inl rfl, rfl⟩
theorem wireStartCut : Statement .wireStartCut := fun _ => ⟨rfl, .inl rfl, rfl⟩
theorem wireStopCut : Statement .wireStopCut := fun _ => ⟨rfl, .inl rfl, rfl⟩

theorem wireMovePenUp (payload : List Byte) : Statement (.wireMovePenUp payload) := by
  intro h
  have hl : payload.length = 12 := by simpa [Instr.wf] using h
  exact ⟨rfl, .inr (by simp [hl]), by simp [hl]⟩

theorem wireMovePenDown (payload : List Byte) : Statement (.wireMovePenDown payload) := by
  intro h
  have hl : payload.length = 12 := by simpa [Instr.wf] using h
  exact ⟨rfl, .inr (by simp [hl]), by simp [hl]⟩

end Sys2Proof.Laws.EncodingShape
end

