-- ==== Sys2Proof/Tests/Slice0.lean ====
section
/-! SUPPORT. The model's own tests: expected results come from spec/ (95_test_vectors.md names them), and a witness for
the hypotheses of each statement that has some. -/

namespace Sys2Proof.Tests

open Sys2Proof.Machine

/-- The example configuration of 95_test_vectors.md (its keys are of no real device). -/
def exampleConfig : Config where
  nmax := 64
  keyPenUp := ⟨0x00010203, 0x04050607, 0x08090A0B, 0x0C0D0E0F⟩
  keyPenDown := ⟨0x10111213, 0x14151617, 0x18191A1B, 0x1C1D1E1F⟩
  keyCtr := ⟨0x01234567, 0x89ABCDEF, 0xFEDCBA98, 0x76543210⟩
  byteOrder := .little

/-- The reset state under the example configuration. -/
def s0 : State := { State.reset with cfg := exampleConfig }

/-- `s0` with bytes at the start of BUF and a key. -/
def loaded (bytes : List Byte) (k : Key) : State := { s0 with k := k }.setBufBytes 0 bytes

/-- The state an outcome answers, or `s` where it answers none. -/
def after (r : Result) (s : State) : State :=
  match r with
  | .next t => t
  | .fault _ => s
  | .refused _ => s

/-- One step in which the host writes a command word. -/
def cmd (w : Word) (s : State) : State := after (step { s with agenda := [.port (.regWrite 0 32 w)] }) s

/-- One step with one event. -/
def ev (e : Event) (s : State) : State := after (step { s with agenda := [e] }) s

/-- The first `n` bytes of BUF. -/
def bufList (n : Nat) (s : State) : List Byte := (List.range n).map s.bufByte

/-- An open link that takes everything. -/
def openLink : Link := { Link.closed with handle := some 0 }

/-- `s0` with ProtocolClient connected over `openLink`. -/
def online : State := { s0 with phase := .connected, link := openLink }

/-! ## Well-formedness: an ill-formed term for each check (R74, R75, R76) -/

theorem test_wf_xform_too_big : Instr.wf (.xform 32768) = false := by decide
theorem test_wf_xform_too_small : Instr.wf (.xform (-32769)) = false := by decide
theorem test_wf_encb_too_long : Instr.wf (.encb 65536) = false := by decide
theorem test_wf_decb_too_long : Instr.wf (.decb 65536) = false := by decide
theorem test_wf_ctrxor_too_long : Instr.wf (.ctrxor 65536) = false := by decide
theorem test_wf_penup_short : Instr.wf (.wireMovePenUp [1, 2, 3]) = false := by decide
theorem test_wf_pendown_short : Instr.wf (.wireMovePenDown [1, 2, 3]) = false := by decide
theorem test_wf_enc_degenerate : Asm.wf (.enc 1) = false := by decide
theorem test_wf_dec_degenerate : Asm.wf (.dec 1) = false := by decide
theorem test_wf_ctrenc_too_long : Asm.wf (.ctrenc 65536) = false := by decide
theorem test_wf_ctrdec_too_long : Asm.wf (.ctrdec 65536) = false := by decide
theorem test_wf_op_is_a_command : Asm.wf (.op .wireStopCut) = false := by decide
theorem test_cfg_wf_needs_two_words : ({ exampleConfig with nmax := 1 } : Config).wf = false := by decide
theorem test_cfg_wf_bounded : ({ exampleConfig with nmax := 16384 } : Config).wf = false := by decide
theorem test_cfg_wf_keys_differ : ({ exampleConfig with keyPenDown := exampleConfig.keyPenUp } : Config).wf = false := by
  decide

/-! ## Decoding: words written out from R72 and frames from R74 -/

theorem test_decode_xform : decode 0b00000000111111111111111000000001#32 = .ok (.xform (-2)) := by decide
theorem test_decode_encb : decode 0b00000000000000000000100000000010#32 = .ok (.encb 8) := by decide
theorem test_decode_decb : decode 0b00000000111111111111111100000011#32 = .ok (.decb 65535) := by decide
theorem test_decode_ctrinit0 : decode 0b00000000000000000000000000010000#32 = .ok .ctrinit0 := by decide
theorem test_decode_ctrinit : decode 0b00000000000000000000000000010001#32 = .ok .ctrinit := by decide
theorem test_decode_ctrregen : decode 0b00000000000000000000000000010010#32 = .ok .ctrregen := by decide
theorem test_decode_ctrnext : decode 0b00000000000000000000000000010011#32 = .ok .ctrnext := by decide
theorem test_decode_ctrxor : decode 0b00000000000000010000000000010100#32 = .ok (.ctrxor 256) := by decide
theorem test_decode_frqry : decode 0b00000000000000000000000000110000#32 = .ok .frqry := by decide
theorem test_decode_frstart : decode 0b00000000000000000000000000110001#32 = .ok .frstart := by decide
theorem test_decode_frstop : decode 0b00000000000000000000000000110010#32 = .ok .frstop := by decide
theorem test_decode_frmvu : decode 0b00000000000000000000000000110011#32 = .ok .frmvu := by decide
theorem test_decode_frmvd : decode 0b00000000000000000000000000110100#32 = .ok .frmvd := by decide

theorem test_decode_wire_query : decodeWire exampleConfig [0x04, 0x14, 0, 0, 0] = .ok .wireQueryMatLoaded := by decide
theorem test_decode_wire_start : decodeWire exampleConfig [0x04, 0x21, 0, 0, 0] = .ok .wireStartCut := by decide
theorem test_decode_wire_stop : decodeWire exampleConfig [0x04, 0x22, 0, 0, 0] = .ok .wireStopCut := by decide

/-- The payload of V-F4 (key `TKU`). -/
def upPayload : List Byte := [0x5D, 0xCF, 0xB6, 0x57, 0xA6, 0x71, 0x53, 0xEC, 0x4B, 0xE2, 0x05, 0x84]

/-- The payload of V-F5 (key `TKD`). -/
def downPayload : List Byte := [0x47, 0x6E, 0xE3, 0xAF, 0x44, 0xBA, 0xF2, 0x55, 0x65, 0xE5, 0x8F, 0x18]

theorem test_decode_wire_penup :
    decodeWire exampleConfig (0x0D :: 0x40 :: upPayload) = .ok (.wireMovePenUp upPayload) := by decide +kernel
theorem test_decode_wire_pendown :
    decodeWire exampleConfig (0x0D :: 0x40 :: downPayload) = .ok (.wireMovePenDown downPayload) := by decide +kernel

/-- 2.6 of 95_test_vectors.md. -/
theorem test_decode_illegal :
    [0x00000000#32, 0x00000004#32, 0x0000000F#32, 0x00000015#32, 0x0000002F#32, 0x00000035#32, 0x000000FF#32].all
      (fun w => match decode w with | .error .reservedOp => true | _ => false) = true ∧
    [0x01000201#32, 0x80000030#32, 0x01000702#32].all
      (fun w => match decode w with | .error .nonzeroZ => true | _ => false) = true ∧
    [0x00000130#32, 0x00000111#32, 0x00FFFF13#32, 0x00000133#32, 0x00000113#32].all
      (fun w => match decode w with | .error .nonzeroImm => true | _ => false) = true := by decide

theorem test_decode_wire_illegal : decodeWire exampleConfig [0x04, 0x40, 0, 0, 0] = .error .notAFrame := by decide

theorem test_table_word : decodeTableWord 32 0x14 = some (.ctrxor 0) := by decide
theorem test_table_frame : decodeTableWord 40 0x0000001404 = some .wireQueryMatLoaded := by decide
theorem test_table_frame_short : tableEncoding 16 0x400D = .frame (0x0D :: 0x40 :: List.replicate 12 0) := by decide
theorem test_fetch_word : step (s0.withFetchWord 32 0x30) = exec .frqry s0 := rfl
theorem test_fetch_frame : step (s0.withFetchWord 40 0x0000002204) = exec .wireStopCut s0 := rfl

/-! ## The transform, on its own (2.1, 2.2 of 95_test_vectors.md) -/

theorem test_mx_vm6 : Cipher.mx 0x12345678 0x9ABCDEF0 0x3C6EF372 0 5
    ⟨0x11111111, 0x22222222, 0x33333333, 0x44444444⟩ = 0x1369853A := by decide +kernel
theorem test_encode_vx1 : Cipher.encode [0, 0] 2 ⟨0, 0, 0, 0⟩ = [0x053704AB, 0x575D8C80] := by decide +kernel
theorem test_encode_e1 : Cipher.encode [0, 9, 8, 7, 6, 0xFFFFFFFF, 4, 3, 2, 1] 10 ⟨1, 2, 0xFFFFFFFF, 4⟩ =
    [0x96A143F4, 0x0FC789D6, 0xBE2E8316, 0x5740C059, 0xB5F74650, 0x9E3E659B, 0xB1BF0B75, 0x8C13079D, 0xC8328A9A,
     0x5C72F1AC] := by decide +kernel
theorem test_decode_vx12 : Cipher.decode [1, 2] 2 ⟨1, 2, 3, 4⟩ = [0xFB39376B, 0x8366B2FD] := by decide +kernel

/-! ## One step of each instruction -/

/-- V-X14: `XFORM 3` leaves the fourth word alone. -/
theorem test_xform_vx14 :
    let t := cmd 0x00000301 (s0.storeVec [1, 2, 3, 4, 5, 6] |> fun s => { s with k := ⟨1, 2, 3, 4⟩ })
    t.loadVec 6 = [0xF543BB2D, 0x14FAB404, 0xC8AA0A88, 4, 5, 6] ∧ t.statusWord = 0 := by decide +kernel

/-- V-X12 (`XFORM -2`). -/
theorem test_xform_vx12 :
    (cmd 0x00FFFE01 (s0.storeVec [1, 2] |> fun s => { s with k := ⟨1, 2, 3, 4⟩ })).loadVec 2 =
      [0xFB39376B, 0x8366B2FD] := by decide +kernel

/-- V-X10: `XFORM -1` is degenerate, not fatal. -/
theorem test_xform_vx10 : (cmd 0x00FFFF01 s0).statusWord = 0x00000001 := by decide

/-- V-X11: `XFORM -65` is out of range. -/
theorem test_xform_vx11 : (cmd 0x00FFBF01 s0).statusWord = 0x00000104 := by decide

/-- V-B1. -/
theorem test_encb_vb1 :
    bufList 8 (cmd 0x00000802 (loaded [0, 1, 2, 3, 4, 5, 6, 7] exampleConfig.keyCtr)) =
      [0xA8, 0x71, 0xFA, 0xB2, 0x4F, 0x6D, 0x48, 0xF0] := by decide +kernel

/-- V-B6, V-B8: the length check comes before the range check. -/
theorem test_encb_vb6 : (cmd 0x00010302 s0).statusWord = 0x00000102 ∧ (cmd 0x00010402 s0).statusWord = 0x00000104 := by
  decide

/-- V-B4: "prycut-block" again. -/
theorem test_decb_vb4 :
    bufList 12 (cmd 0x00000C03 (loaded [0x83, 0x91, 0x64, 0x7C, 0xFB, 0xB0, 0x67, 0xCD, 0x57, 0x34, 0xE3, 0x0C]
      exampleConfig.keyPenUp)) =
      [0x70, 0x72, 0x79, 0x63, 0x75, 0x74, 0x2D, 0x62, 0x6C, 0x6F, 0x63, 0x6B] := by decide +kernel

/-- V-B6 with `DECB 4`. -/
theorem test_decb_vb6 : (cmd 0x00000403 s0).statusWord = 0x00000102 := by decide

/-- The end of V-C1. -/
def vc1 : State := cmd 0x00000010 s0

/-- V-C1. -/
theorem test_ctrinit0_vc1 :
    vc1.statusWord = 0x00000200 ∧ vc1.high = 0 ∧ vc1.low = 1 ∧ vc1.cur = 0 ∧
    vc1.ks.toList = [0xC2, 0x25, 0x56, 0x00, 0xCD, 0x5E, 0xF8, 0xF8] := by decide +kernel

/-- V-C6: the low word wraps into the high word. -/
theorem test_ctrinit_vc6 :
    let t := cmd 0x00000011 { s0 with arg0 := 0xFFFFFFFF }
    t.high = 1 ∧ t.low = 0 ∧ t.ks.toList = [0x7A, 0x9F, 0x80, 0xFD, 0xDC, 0x91, 0x06, 0x1B] := by decide +kernel

/-- V-C7: the unread bytes of the first block are skipped. -/
theorem test_ctrregen_vc7 :
    let t := cmd 0x00000012 { vc1 with cur := 2 }
    t.ks.toList = [0xF0, 0xE1, 0xF7, 0x0E, 0xE8, 0xFF, 0x8B, 0x47] ∧ t.low = 2 ∧ t.cur = 0 := by decide +kernel

/-- V-C11: the 64-bit counter wraps silently. -/
theorem test_ctrregen_vc11 :
    let t := cmd 0x00000012 { s0 with high := 0xFFFFFFFF, low := 0xFFFFFFFF, cvalid := true }
    t.ks.toList = [0x9F, 0xC0, 0x4C, 0x71, 0x1B, 0xD9, 0xE6, 0xD5] ∧ t.high = 0 ∧ t.low = 0 := by decide +kernel

/-- The ninth byte of the stream of IV 0 (R135's example): a spent buffer is regenerated first. -/
theorem test_ctrnext_regenerates :
    let t := cmd 0x00000013 { vc1 with cur := 8 }
    t.res = 0xF0 ∧ t.cur = 1 ∧ t.low = 2 := by decide +kernel

/-- V-C8. -/
theorem test_ctrnext_vc8 : (cmd 0x00000013 s0).statusWord = 0x00000105 ∧ (cmd 0x00000013 s0).res = 0 := by decide

/-- V-C3: 20 bytes, two regenerations inside the call. -/
theorem test_ctrxor_vc3 :
    let t := cmd 0x00001414 vc1
    bufList 20 t = [0xC2, 0x25, 0x56, 0x00, 0xCD, 0x5E, 0xF8, 0xF8, 0xF0, 0xE1, 0xF7, 0x0E, 0xE8, 0xFF, 0x8B, 0x47,
      0x75, 0x9B, 0x1B, 0x96] ∧ t.high = 0 ∧ t.low = 3 ∧ t.cur = 4 := by decide +kernel

/-- V-C10: 257 bytes do not fit. -/
theorem test_ctrxor_vc10 : (cmd 0x00010114 { s0 with cvalid := true }).statusWord = 0x00000304 := by decide

/-- V-F1, V-F2, V-F3. -/
theorem test_frqry_vf1 : (cmd 0x00000030 s0).frameBytes = [0x04, 0x14, 0, 0, 0] := by decide
theorem test_frstart_vf2 : (cmd 0x00000031 s0).frameBytes = [0x04, 0x21, 0, 0, 0] := by decide
theorem test_frstop_vf3 : (cmd 0x00000032 s0).frameBytes = [0x04, 0x22, 0, 0, 0] := by decide

/-- V-F4, and the bytes above the frame. -/
theorem test_frmvu_vf4 :
    let t := cmd 0x00000033 { s0 with arg0 := 100, arg1 := 200 }
    t.frm.toList = [0x0D, 0x40] ++ upPayload ++ [0, 0] ∧ t.flen = 14 := by decide +kernel

/-- V-F4 with `BYTE_ORDER = big`. -/
theorem test_frmvu_big :
    (cmd 0x00000033 { s0 with cfg := { exampleConfig with byteOrder := .big }, arg0 := 100, arg1 := 200 }).frameBytes =
      [0x0D, 0x40, 0x57, 0xB6, 0xCF, 0x5D, 0xEC, 0x53, 0x71, 0xA6, 0x84, 0x05, 0xE2, 0x4B] := by decide +kernel

/-- V-F5. -/
theorem test_frmvd_vf5 :
    (cmd 0x00000034 { s0 with arg0 := 100, arg1 := 200 }).frameBytes = [0x0D, 0x40] ++ downPayload := by decide +kernel

/-- The five frames on an open link (R74, R178). -/
theorem test_wire_query : (ev (.wire [0x04, 0x14, 0, 0, 0]) online).link.tx = [0x04, 0x14, 0, 0, 0] := by decide
theorem test_wire_start : (after (exec .wireStartCut online) s0).link.tx = [0x04, 0x21, 0, 0, 0] := by decide
theorem test_wire_stop : (after (exec .wireStopCut online) s0).link.tx = [0x04, 0x22, 0, 0, 0] := by decide
theorem test_wire_penup : (ev (.wire (0x0D :: 0x40 :: upPayload)) online).link.tx = 0x0D :: 0x40 :: upPayload := by
  decide +kernel
theorem test_wire_pendown :
    (ev (.wire (0x0D :: 0x40 :: downPayload)) { online with link := { openLink with accepts := some 3 } }).link.tx =
      [0x0D, 0x40, 0x47] := by decide +kernel

/-! ## The port (2.7 of 95_test_vectors.md) -/

/-- V-A1. -/
theorem test_bytes_va1 : bufList 4 (ev (.port (.memWrite .buf 0 4 0x44332211)) s0) = [0x11, 0x22, 0x33, 0x44] := by
  decide

/-- V-A2. -/
theorem test_word_va2 : (s0.setBufBytes 4 [0xAA, 0xBB, 0xCC, 0xDD]).vecWord 1 = 0xDDCCBBAA := by decide

/-- V-A3, V-A4, V-A6, V-A7. -/
theorem test_access_faults :
    [Event.port (.memRead .buf 256 4), .port (.memRead .buf 256 1), .port (.memRead .buf 2 4),
     .port (.memWrite .buf 6 4 0), .port (.memWrite .frm 0 1 0), .port (.memRead .frm 16 1), .port (.memRead .frm 14 4)].all
      (fun e => (ev e s0).statusWord = 0x00000107) = true := by decide

/-- V-A5. -/
theorem test_register_faults :
    [Event.port (.regRead 0 32), .port (.regWrite 1 32 0), .port (.regWrite 4 32 0), .port (.regWrite 8 32 0),
     .port (.regRead 9 32), .port (.regWrite 11 32 0), .port (.regRead 16 32), .port (.regWrite 0 16 0x30)].all
      (fun e => (ev e s0).statusWord = 0x00000107) = true := by decide

/-- V-A9: after an access fault, a success sets `CODE` back and leaves `FAULT`. -/
theorem test_fault_sticks_va9 : (cmd 0x00000014 { s0 with cvalid := true, code := .accessFault, fault := true }).statusWord =
    0x00000300 := by decide

/-- The words of FRM after V-F4 (R50). -/
theorem test_frm_words :
    let t := cmd 0x00000033 { s0 with arg0 := 100, arg1 := 200 }
    [0, 4, 8, 12].map (fun a => t.memValue .frm a 4) = [0xCF5D400D, 0x71A657B6, 0xE24BEC53, 0x00008405] := by
  decide +kernel

/-- The last line of P4: reset clears `FAULT` and `CVALID`. -/
theorem test_reset_p4 : (ev (.port .reset) { s0 with cvalid := true, fault := true, code := .accessFault }).statusWord = 0 := by
  decide

/-! ## The host software (E6, E7 of 95_test_vectors.md) -/

theorem test_query_e6 :
    [[0, 0, 0, 0, 1], [0, 0, 0, 0, 0], [0, 0, 1], [], [0, 0, 0, 0, 1, 0]].map
      (fun r => (ev .deadline { online with phase := .awaiting .query, link := { openLink with rx := r } }).callResult) =
    [.matLoaded true, .matLoaded false, .matLoaded false, .matLoaded false, .matLoaded false] := by decide

theorem test_await_e7 :
    [[], [7], [7, 8], [1, 2, 3, 4, 5]].map
      (fun r => (ev .deadline { online with phase := .awaiting (.reply 5), link := { openLink with rx := r } }).callResult) =
    [.replyBytes [], .replyBytes [], .replyBytes [7, 8], .replyBytes [1, 2, 3, 4, 5]] := by decide

theorem test_query_sends_its_frame :
    let t := ev (.call .queryMatLoaded) online
    t.link.tx = [0x04, 0x14, 0, 0, 0] ∧ t.phase = .awaiting .query := by decide

/-- A caller that waits for a reply is blocked: what it does next comes after the wait (R181). -/
theorem test_waiting_host_is_blocked :
    let s : State := { online with phase := .awaiting .move, agenda := [.wire [4, 0x22, 0, 0, 0], .received [1, 2, 3, 4, 5]] }
    let t := after (step s) s
    t.callResult = .moved true ∧ t.link.tx = [] ∧ t.agenda = [.wire [4, 0x22, 0, 0, 0]] ∧
    (after (step t) t).link.tx = [4, 0x22, 0, 0, 0] := by decide

/-- `read(count)` gives the oldest bytes and leaves the others buffered (R171). -/
theorem test_link_read :
    ({ openLink with rx := [1, 2, 3] } : Link).read 2 = ([1, 2], { openLink with rx := [3] }) := by decide

/-! ## Witnesses: concrete values that meet the hypotheses of the statements -/

theorem witness_CommandEncodeThenDecode : Instr.isCommand (.xform (-32768)) = true ∧ Instr.wf (.xform (-32768)) = true := by
  decide
theorem witness_CommandDecodeThenEncode : decode 0x00FFFF14#32 = .ok (.ctrxor 65535) := by decide
theorem witness_FrameCodingRoundTrip :
    Instr.isCommand (.wireMovePenDown downPayload) = false ∧ Instr.wf (.wireMovePenDown downPayload) = true ∧
    Sys2Proof.moveFrame exampleConfig downPayload = .wireMovePenDown downPayload ∧
    decodeWire exampleConfig [0x04, 0x22, 0, 0, 0] = .ok .wireStopCut := by decide +kernel
theorem witness_DecodeFollowsTheTable :
    (∃ row ∈ cmdTable, 0x00FFFE01#32 &&& row.mask = row.pattern) ∧
    (∀ row ∈ cmdTable, 0x00000110#32 &&& row.mask ≠ row.pattern) := by decide
theorem witness_StepRunsTheDecodedInstruction :
    s0.phase.blocksHost = false ∧ decode 0x33#32 = .ok .frmvu ∧
    decodeWire s0.cfg [0x04, 0x21, 0, 0, 0] = .ok .wireStartCut ∧
    fromOutside (.call .stop) = false ∧ fromOutside (.received [1]) = true := by decide
theorem witness_IllegalWordReportsIllegalOp : ∀ row ∈ cmdTable, 0x01000201#32 &&& row.mask ≠ row.pattern := by decide
theorem witness_EngineNeverStopsNorActsAlone :
    (s0.quiescent = true ∧ s0.takeEvent = none) ∧
    ({ s0 with agenda := [.call .stop] } : State).takeEvent = some (.call .stop, s0) ∧
    ({ online with agenda := [.call .connect] } : State).takeEvent = some (.call .connect, online) ∧
    ({ s0 with agenda := [.wire [4]] } : State).takeEvent = some (.wire [4], s0) ∧
    (∀ i, decodeWire s0.cfg [4] ≠ .ok i) ∧
    ({ s0 with agenda := [.port .reset] } : State).takeEvent = some (.port .reset, s0) :=
  ⟨by decide, rfl, rfl, rfl, (fun _ h => nomatch h), rfl⟩
theorem witness_StepKeepsTheInvariant :
    s0.inv = true ∧ step { s0 with agenda := [.port (.regWrite 0 32 0x30)] } = exec .frqry s0 ∧
    exec .frqry s0 = .next (cmd 0x30 s0) := ⟨by decide, rfl, rfl⟩
theorem witness_StepKeepsTheConfiguration : step s0 = .next s0 := rfl
theorem witness_FaultIsStickyAndBlocksNothing :
    ({ s0 with fault := true, agenda := [.port (.regWrite 0 32 0x30)] } : State).takeEvent =
      some (.port (.regWrite 0 32 0x30), { s0 with fault := true }) ∧
    step { s0 with fault := true, agenda := [.port (.regWrite 0 32 0x30)] } = .next (cmd 0x30 { s0 with fault := true }) ∧
    hostAction (.regWrite 2 32 5) { s0 with fault := false } = .next { s0 with fault := false, arg0 := 5 } := ⟨rfl, rfl, rfl⟩
theorem witness_CvalidSetByInitClearedByReset :
    (s0.cvalid = false ∧ (cmd 0x10 s0).cvalid = true) ∧
    ({ s0 with cvalid := true } : State).cvalid = true ∧ (ev (.port .reset) { s0 with cvalid := true }).cvalid = false := by
  decide
theorem witness_InstructionsWriteOnlyTheirUnit :
    exec .frstop s0 = .next (cmd 0x32 s0) ∧ exec .wireStopCut online = .next (after (exec .wireStopCut online) s0) := ⟨rfl, rfl⟩
theorem witness_FailuresArePrecise :
    (exec .ctrnext s0 = .next (cmd 0x13 s0) ∧ (cmd 0x13 s0).code ≠ .ok) ∧
    (issue 0 s0 = .next (cmd 0 s0) ∧ (cmd 0 s0).code ≠ .ok) ∧
    hostAction (.regWrite 1 32 0) s0 = .next s0.faultingWrite ∧ s0.code ≠ .accessFault ∧
    s0.faultingWrite.code = .accessFault := ⟨⟨rfl, by decide⟩, ⟨rfl, by decide⟩, rfl, by decide, by decide⟩
theorem witness_SuccessKeepsFaultAndCvalid : exec .frqry s0 = .next (cmd 0x30 s0) ∧ (cmd 0x30 s0).code = .ok :=
  ⟨rfl, by decide⟩
theorem witness_DegenerateExactly :
    hostAction (.regWrite 0 32 0x00FFFF01) s0 = .next (cmd 0x00FFFF01 s0) ∧ s0.code ≠ .degenerate ∧
    (cmd 0x00FFFF01 s0).code = .degenerate ∧ (cmd 0x00000101 s0).code = .degenerate := ⟨rfl, by decide, by decide, by decide⟩
theorem witness_InvalidPayloadLengthExactly :
    (4 % 4 ≠ 0 ∨ 4 < 8) ∧ (9 % 4 ≠ 0 ∨ 9 < 8) ∧ hostAction (.regWrite 0 32 0x00000402) s0 = .next (cmd 0x00000402 s0) ∧
    s0.code ≠ .invalidPayloadLength ∧ (cmd 0x00000402 s0).code = .invalidPayloadLength :=
  ⟨by decide, by decide, rfl, by decide, by decide⟩
theorem witness_VectorRangeExactly :
    (2 ≤ (-65 : Int).natAbs ∧ s0.cfg.nmax < (-65 : Int).natAbs) ∧ (260 % 4 = 0 ∧ 8 ≤ 260 ∧ s0.cfg.nmax < 260 / 4) ∧
    (({ s0 with cvalid := true } : State).cvalid = true ∧ 4 * s0.cfg.nmax < 257) ∧
    hostAction (.regWrite 0 32 0x00004101) s0 = .next (cmd 0x00004101 s0) ∧ s0.code ≠ .vectorRange ∧
    (cmd 0x00004101 s0).code = .vectorRange := ⟨by decide, by decide, by decide, rfl, by decide, by decide⟩
theorem witness_CtrUninitExactly :
    s0.cvalid = false ∧ hostAction (.regWrite 0 32 0x14) s0 = .next (cmd 0x14 s0) ∧ s0.code ≠ .ctrUninit ∧
    (cmd 0x14 s0).code = .ctrUninit := ⟨rfl, rfl, by decide, by decide⟩
theorem witness_EncodeRoundEquations : 2 ≤ 2 ∧ [1#32, 2#32].length = 2 := by decide
theorem witness_RoundCountAndSums :
    2 ≤ 53 ∧ (14 ≤ 17 ∧ 17 ≤ 17) ∧ (18 ≤ 26 ∧ 26 ≤ 26) ∧ (27 ≤ 52 ∧ 52 ≤ 52) ∧ 53 ≤ 53 ∧ 1 ≤ 32 ∧ 32 ≤ 32 := by decide
theorem witness_DecodeAndEncodeAreInverse : 2 ≤ 3 ∧ [1#32, 2#32, 3#32].length = 3 := by decide
theorem witness_TransformsAreLocal : 2 ≤ 2 ∧ 2 ≤ [1#32, 2#32, 3#32].length := by decide
theorem witness_XformTransformsTheVector :
    Memory.wf s0.buf = true ∧ (1 < (64 : Int) ∧ (64 : Int) ≤ s0.cfg.nmax) ∧ (-64 : Int) < -1 ∧ -(-64 : Int) ≤ s0.cfg.nmax := by
  decide
theorem witness_EncbAndDecbTransformTheBuffer :
    Memory.wf s0.buf = true ∧ (8 % 4 = 0 ∧ 8 ≤ 8) ∧ 256 % 4 = 0 ∧ 256 ≤ 4 * s0.cfg.nmax := by decide
theorem witness_ByteWrapperIsTheTransform : 8 % 4 = 0 ∧ 8 ≤ 8 := by decide
theorem witness_BlockRoundTrips :
    Memory.wf s0.buf = true ∧ (2 ≤ (-2 : Int).natAbs ∧ (-2 : Int).natAbs ≤ s0.cfg.nmax) ∧
    12 % 4 = 0 ∧ 8 ≤ 12 ∧ 12 ≤ 4 * s0.cfg.nmax := by decide
theorem witness_CtrregenMovesToTheNextBlock : ({ s0 with cvalid := true } : State).cvalid = true := rfl
theorem witness_CtrnextTakesOneByte :
    ({ s0 with cvalid := true, cur := 7 } : State).cur.toNat < 8 ∧ ({ s0 with cvalid := true, cur := 8 } : State).cur.toNat = 8 := by
  decide
theorem witness_CtrxorXorsTheKeystream :
    Memory.wf s0.buf = true ∧ ({ s0 with cvalid := true } : State).cvalid = true ∧ 256 ≤ 4 * s0.cfg.nmax ∧
    0 ≤ 4 * s0.cfg.nmax := by decide
theorem witness_KeystreamClosedForm : exec .ctrinit s0 = .next (s0.initCounter s0.arg0).succeed := rfl
theorem witness_CtrxorRegenerationCount :
    ({ s0 with cvalid := true, cur := 8 } : State).cur.toNat ≤ 8 ∧ 1 ≤ 1 ∧ 1 ≤ 4 * s0.cfg.nmax ∧
    exec (.ctrxor 1) { s0 with cvalid := true, cur := 8 } =
      .next (State.xorStream { s0 with cvalid := true, cur := 8 } 0 1).succeed := ⟨by decide, by decide, by decide, rfl⟩
theorem witness_StreamContinuity :
    5 + 8 ≤ 4 * s0.cfg.nmax ∧ Memory.wf s0.buf = true ∧ Memory.wf [(0, 7)] = true ∧ Memory.wf [(5, 7)] = true ∧
    (∀ i, i < 5 → Memory.read [(5, 7)] i = s0.bufByte i) ∧
    (∀ i, i < 8 → Memory.read [(5, 7)] (5 + i) = Memory.read [(0, 7)] i) := by decide
theorem witness_StreamDecryptsItself : Memory.wf s0.buf = true ∧ 13 ≤ 4 * s0.cfg.nmax := by decide
theorem witness_MovePayloadDecrypts :
    let t := cmd 0x00000033 { s0 with arg0 := 100, arg1 := 200 }
    let u := loaded upPayload exampleConfig.keyPenUp
    u.k = s0.cfg.keyPenUp ∧ u.cfg = s0.cfg ∧ 3 ≤ s0.cfg.nmax ∧ Memory.wf u.buf = true ∧
    ∀ j, j < 12 → u.bufByte j = t.frmByte (2 + j) := by decide +kernel
theorem witness_BuiltFramesAreWireFrames :
    exec .frmvd { s0 with arg0 := 100, arg1 := 200 } = .next (cmd 0x34 { s0 with arg0 := 100, arg1 := 200 }) ∧
    hasMarker exampleConfig exampleConfig.keyPenUp downPayload = false := ⟨rfl, by decide +kernel⟩
theorem witness_WireFramesAreWritten :
    online.link.handle.isSome = true ∧ ∀ n, online.link.accepts = some n → [0x04#8, 0x14, 0, 0, 0].length ≤ n :=
  ⟨rfl, fun _ h => nomatch h⟩
theorem witness_WireFramesPropagateLinkErrors :
    encode .wireStopCut = .frame [0x04, 0x22, 0, 0, 0] ∧ s0.link.handle = none ∧
    ({ openLink with accepts := some 4 } : Link).handle.isSome = true ∧ 4 < [0x04#8, 0x22, 0, 0, 0].length := by decide
theorem witness_RegisterReads : ({ s0 with cvalid := true } : State).cvalid = true := rfl
theorem witness_UninitialisedCounterReadsAreStable : s0.cvalid = false ∧ (8 = 6 ∨ 8 = 7 ∨ 8 = 8) := by decide
theorem witness_RegisterWrites : decode 0x31#32 = .ok .frstart := by decide
theorem witness_RegisterAccessFaults :
    ((16 ≠ 32 ∨ 2 ∉ readableRegs) ∧ (32 ≠ 32 ∨ 9 ∉ readableRegs)) ∧ (32 ≠ 32 ∨ 8 ∉ writableRegs) ∧ 0 ∉ readableRegs := by
  decide
theorem witness_VecAndBufAreOneStorage :
    s0.cfg.byteOrder = .little ∧ ({ exampleConfig with byteOrder := .big } : Config).byteOrder = .big ∧ 3 < 4 := by decide
theorem witness_MemoryReads :
    255 < 4 * s0.cfg.nmax ∧ (252 % 4 = 0 ∧ 252 + 4 ≤ 4 * s0.cfg.nmax) ∧ 15 < 16 ∧ (12 = 0 ∨ 12 = 4 ∨ 12 = 8 ∨ 12 = 12) := by
  decide
theorem witness_MemoryWrites :
    Memory.wf s0.buf = true ∧ (255 < 4 * s0.cfg.nmax ∧ (255#32).toNat ≤ 255) ∧ 252 % 4 = 0 ∧ 252 + 4 ≤ 4 * s0.cfg.nmax := by
  decide
theorem witness_MemoryAccessFaults :
    (2 ≠ 1 ∧ 2 ≠ 4) ∧ (4 = 4 ∧ 2 % 4 ≠ 0) ∧ 4 * s0.cfg.nmax < 256 + 1 ∧ 16 < 13 + 4 := by decide
theorem witness_WideByteWriteFaults : 255 < (256#32).toNat := by decide
theorem witness_ConstantKeysCannotBeRead : hostAction (.regRead 12 32) s0 = .next (s0.answer s0.k.k0) := rfl
theorem witness_HostConnectAndDisconnect :
    s0.phase = .disconnected ∧ s0.link.devices = 0 ∧ online.phase = .connected ∧
    0 < ({ openLink with devices := 1 } : Link).devices ∧ openLink.configures = true ∧
    ({ openLink with configures := false } : Link).configures = false := by decide
theorem witness_HostWaitEndsAtItsDeadline :
    ({ online with phase := .awaiting .query, agenda := [.deadline] } : State).phase = .awaiting .query ∧
    [7#8].length ≤ 1 ∧ 1 < [7#8, 8].length := by decide
theorem witness_HostMoveCallsSendTheirFrame :
    online.phase = .connected ∧ online.link.handle.isSome = true ∧ online.link.accepts = none ∧
    online.link.rx.length < 5 := by decide

end Sys2Proof.Tests
end

section
/-! The reset state, and the two-state facts about the three constant keys (spec 00_scope.md R7, R8, R217). -/

namespace Sys2Proof.Machine

/-- The invariant as a conjunction of its parts. -/
theorem State.inv_iff (s : State) : s.inv = true ↔
    s.cfg.wf = true ∧ s.bufOk = true ∧ s.statusOk = true ∧ s.resOk = true ∧ s.curOk = true ∧ s.frameOk = true := by
  simp only [State.inv, Bool.and_eq_true, and_assoc]

/-- Settles O10: the open keys enter through `Config.device_wf` only; every other part is about written-out zeros. -/
theorem resetHasTheInvariant : Obligations.ResetHasTheInvariant :=
  State.reset.inv_iff.2 ⟨Config.device_wf, rfl, rfl, rfl, rfl, by decide⟩

section
variable (s : State) (c : Config)

/-- Every register is a field of its own, so what it reads as is not in the configuration (R24). -/
theorem State.regValue_withCfg (index : Nat) : ({ s with cfg := c } : State).regValue index = s.regValue index := rfl

/-- Which accesses are well formed depends on `NMAX` alone (R50, R51). -/
theorem State.accessOk_withCfg (hn : c.nmax = s.cfg.nmax) (space : Space) (addr n : Nat) :
    ({ s with cfg := c } : State).accessOk space addr n = s.accessOk space addr n := by
  have hb : ({ s with cfg := c } : State).spaceBytes space = s.spaceBytes space := by
    cases space
    · exact congrArg (4 * ·) hn
    · rfl
  rw [State.accessOk, hb, State.accessOk]

/-- A memory read returns bytes of BUF or FRM, in the order `BYTE_ORDER` says (R50). -/
theorem State.memValue_withCfg (ho : c.byteOrder = s.cfg.byteOrder) (space : Space) (addr n : Nat) :
    ({ s with cfg := c } : State).memValue space addr n = s.memValue space addr n := by
  cases space <;> simp only [State.memValue, State.vecWord, State.bufByte, State.frmByte, ho]

/-- A register read, faulting or not, takes nothing from the configuration (R47, R49). -/
theorem regRead_withCfg (index width : Nat) :
    regRead index width { s with cfg := c } = { regRead index width s with cfg := c } := by
  unfold regRead
  rw [State.regValue_withCfg]
  split
  · rfl
  · cases s.regValue index <;> rfl

/-- A memory read, faulting or not, takes `NMAX` and `BYTE_ORDER` from the configuration and nothing else (R50, R52). -/
theorem memRead_withCfg (hn : c.nmax = s.cfg.nmax) (ho : c.byteOrder = s.cfg.byteOrder) (space : Space) (addr n : Nat) :
    memRead space addr n { s with cfg := c } = { memRead space addr n s with cfg := c } := by
  unfold memRead
  rw [State.accessOk_withCfg s c hn, State.memValue_withCfg s c ho]
  split <;> rfl

end

/-- Settles O56: the three constant keys are neither `NMAX` nor `BYTE_ORDER`, which are all a read takes from the
configuration. -/
theorem constantKeysCannotBeRead : Obligations.ConstantKeysCannotBeRead := by
  rintro s up down ctr a t (⟨index, width, rfl⟩ | ⟨space, addr, n, rfl⟩) ht
  · cases ht
    exact congrArg Host.Outcome.next (regRead_withCfg s _ index width)
  · cases ht
    exact congrArg Host.Outcome.next (memRead_withCfg s { s.cfg with keyPenUp := up, keyPenDown := down, keyCtr := ctr } rfl rfl space addr n)

end Sys2Proof.Machine
end

section
/-! The rounds of the transform: their number and their sums (spec 40_block_transform.md R102 to R104). -/

namespace Sys2Proof.Cipher

/-- The sum of round `k`, counted from 1: `mul32(k, DELTA)` (R102). -/
def roundSum (k : Nat) : Word := mul32 (BitVec.ofNat 32 k) Config.delta

theorem roundSum_succ (k : Nat) : roundSum (k + 1) = add32 (roundSum k) Config.delta := by
  simp only [roundSum, add32, mul32, BitVec.ofNat_add, BitVec.add_mul, BitVec.one_mul]

/-- Going one round back takes `DELTA` off the sum (R103). -/
theorem roundSum_pred (k : Nat) : sub32 (roundSum (k + 1)) Config.delta = roundSum k := by
  rw [roundSum_succ, sub32, add32, BitVec.add_sub_cancel]

/-- `DELTA` is odd, so it has an inverse modulo 2^32. -/
theorem delta_mul_inverse : Config.delta * 0x144CBC89#32 = 1#32 := by decide

/-- Multiplying by the inverse of `DELTA` gives the round number back, so no round's sum is 0 (R104 (a)). -/
theorem roundSum_ne_zero {k : Nat} (h1 : 1 ≤ k) (h2 : k ≤ 32) : roundSum k ≠ 0 := by
  intro h
  have hk : BitVec.ofNat 32 k = 0#32 := by
    calc BitVec.ofNat 32 k = roundSum k * 0x144CBC89#32 := by
          rw [roundSum, mul32, BitVec.mul_assoc, delta_mul_inverse, BitVec.mul_one]
      _ = 0#32 := by rw [h]; exact BitVec.zero_mul
  have hmod : k % 2 ^ 32 = 0 := congrArg BitVec.toNat hk
  omega

theorem rounds_ge (n : Nat) : 6 ≤ rounds n := Nat.le_add_right ..

theorem rounds_le {n : Nat} (h : 2 ≤ n) : rounds n ≤ 32 := by
  have : 52 / n ≤ 52 / 2 := Nat.div_le_div_left h (by decide)
  unfold rounds
  omega

/-- `floor(52/n)` is `d` exactly for the `n` with `n*d ≤ 52 < n*(d+1)`. -/
theorem rounds_eq {n d : Nat} (hlo : n * d ≤ 52) (hhi : 52 < n * (d + 1)) : rounds n = 6 + d := by
  rw [rounds, Nat.div_eq_of_lt_le (by linarith) (by linarith)]

theorem rounds_eq_seven {n : Nat} (h1 : 27 ≤ n) (h2 : n ≤ 52) : rounds n = 7 :=
  rounds_eq (d := 1) (by omega) (by omega)

theorem rounds_eq_six {n : Nat} (h : 53 ≤ n) : rounds n = 6 :=
  rounds_eq (d := 0) (by omega) (by omega)

/-- The loop of `Encode`, entered after `r` rounds, runs the rounds `r+1` to `r+q` (R102). -/
theorem encodeLoop_eq_foldl (n : Nat) (key : Key) (q r : Nat) (st : List Word × Word) :
    encodeLoop n key q (roundSum r) st =
      (List.range q).foldl (fun st j => encodeRound n key (roundSum (r + j + 1)) st) st := by
  induction q generalizing r st with
  | zero => rfl
  | succ q ih =>
    rw [encodeLoop, ← roundSum_succ, ih, List.range_succ_eq_map, List.foldl_cons, List.foldl_map]
    simp only [Nat.add_zero, Nat.succ_eq_add_one, Nat.add_right_comm, Nat.add_assoc]

/-- The loop of `Decode`, entered with the sum of round `q`, does not end before its fuel: it runs exactly `q` times, with
the sums of the rounds `q` down to 1 (R103, R104 (a)). -/
theorem decodeLoop_eq_foldl (n : Nat) (key : Key) (q : Nat) (hq : q ≤ 32) (st : List Word × Word) :
    decodeLoop n key q (roundSum q) st =
      (List.range q).foldl (fun st j => decodeRound n key (roundSum (q - j)) st) st := by
  induction q generalizing st with
  | zero => rfl
  | succ q ih =>
    have hne : roundSum (q + 1) ≠ 0 := roundSum_ne_zero (by omega) hq
    rw [decodeLoop, if_neg hne, roundSum_pred, ih (by omega), List.range_succ_eq_map, List.foldl_cons, List.foldl_map]
    simp only [Nat.sub_zero, Nat.succ_eq_add_one, Nat.add_sub_add_right]

/-- `Encode` is `q` rounds, round `r` with the sum `mul32(r, DELTA)` (R102). -/
theorem encode_eq_foldl (ws : List Word) (n : Nat) (key : Key) :
    encode ws n key = ((List.range (rounds n)).foldl
      (fun st r => encodeRound n key (roundSum (r + 1)) st) (ws, ws.getD (n - 1) 0)).1 := by
  have h := encodeLoop_eq_foldl n key (rounds n) 0 (ws, ws.getD (n - 1) 0)
  simp only [Nat.zero_add] at h
  exact congrArg Prod.fst h

/-- `Decode` is `q` rounds with the same sums in reverse (R103). -/
theorem decode_eq_foldl (ws : List Word) {n : Nat} (h : 2 ≤ n) (key : Key) :
    decode ws n key = ((List.range (rounds n)).foldl
      (fun st j => decodeRound n key (roundSum (rounds n - j)) st) (ws, ws.getD 0 0)).1 :=
  congrArg Prod.fst (decodeLoop_eq_foldl n key (rounds n) (rounds_le h) (ws, ws.getD 0 0))

/-- Settles O24: the counts by `rounds_eq`, the sums by `roundSum_ne_zero`, the loops by `encode_eq_foldl` and
`decode_eq_foldl`. -/
theorem roundCountAndSums : Obligations.RoundCountAndSums := by
  refine ⟨fun n h => ⟨rfl, rounds_ge n, rounds_le h⟩, by decide, fun n => ⟨?_, ?_, rounds_eq_seven, rounds_eq_six⟩,
    fun k h1 h2 => roundSum_ne_zero h1 h2, by decide, fun n => ⟨?_, ?_⟩,
    fun n key ws h => ⟨encode_eq_foldl ws n key, decode_eq_foldl ws h key⟩⟩
  · exact fun h1 h2 => rounds_eq (d := 3) (by omega) (by omega)
  · exact fun h1 h2 => rounds_eq (d := 2) (by omega) (by omega)
  · intro h1 h2
    rw [rounds_eq_seven h1 h2]
    decide
  · intro h
    rw [rounds_eq_six h]
    decide

end Sys2Proof.Cipher
end

section
/-! The frame buffer: what `PutFrame` leaves is exactly one frame (spec 42_command_frames.md R150, R22, R74). -/

namespace Sys2Proof

theorem decodeWire_queryMatLoaded (c : Config) :
    decodeWire c [0x04#8, 0x14#8, 0#8, 0#8, 0#8] = .ok .wireQueryMatLoaded := rfl

theorem decodeWire_startCut (c : Config) : decodeWire c [0x04#8, 0x21#8, 0#8, 0#8, 0#8] = .ok .wireStartCut := rfl

theorem decodeWire_stopCut (c : Config) : decodeWire c [0x04#8, 0x22#8, 0#8, 0#8, 0#8] = .ok .wireStopCut := rfl

/-- Any 12 bytes behind the move header are a move frame, whichever key they decrypt under (R74). -/
theorem decodeWire_move (c : Config) {payload : List Byte} (h : payload.length = 12) :
    decodeWire c (0x0D#8 :: 0x40#8 :: payload) = .ok (moveFrame c payload) := by
  simp [decodeWire, h]

namespace Machine

variable (s : State)

theorem movePayload_length (o : ByteOrder) (key : Key) (x y : Word) : (movePayload o key x y).length = 12 := by
  simp [movePayload, bytesOfWords_length]

/-- The 16 bytes of FRM are the frame and zeros (R150). -/
theorem frameBuffer_toList (l o : Byte) {p : List Byte} (h : p.length ≤ 14) :
    (frameBuffer l o p).toList = (l :: o :: p) ++ List.replicate (14 - p.length) 0 := by
  apply List.ext_getElem
  · simp only [Vector.length_toList, List.length_append, List.length_cons, List.length_replicate]
    omega
  · intro i h1 h2
    simp only [Vector.length_toList] at h1
    rw [← List.getD_eq_getElem _ 0, frameBuffer_getD l o p i h1, List.getElem_append]
    split
    · exact List.getD_eq_getElem _ _ _
    · rw [List.getElem_replicate, List.getD_eq_default]
      omega

theorem State.putFrame_flen_toNat (l o : Byte) {p : List Byte} (h : p.length ≤ 14) :
    (s.putFrame l o p).flen.toNat = (l :: o :: p).length := by
  simp only [State.putFrame_flen, BitVec.toNat_ofNat, List.length_cons]
  omega

/-- What `PutFrame` puts in the buffer is read back as `FRM[0 .. FLEN-1]` (R22). -/
theorem State.putFrame_frameBytes (l o : Byte) {p : List Byte} (h : p.length ≤ 14) :
    (s.putFrame l o p).frameBytes = l :: o :: p := by
  rw [State.frameBytes, State.putFrame_flen_toNat s l o h, State.putFrame_frm, frameBuffer_toList l o h, List.take_left]

/-- `PutFrame` of the bytes of a wire frame leaves exactly that frame (R150, R227). -/
theorem State.putFrame_frameOk {l o : Byte} {p : List Byte} {i : Instr} (h : p.length ≤ 14)
    (hd : decodeWire s.cfg (l :: o :: p) = .ok i) : (s.putFrame l o p).frameOk = true := by
  have hone : (s.putFrame l o p).oneFrame = true := by
    simp only [State.oneFrame, State.putFrame_frameBytes s l o h, State.putFrame_flen_toNat s l o h, State.putFrame_cfg,
      hd, State.putFrame_frm, frameBuffer_toList l o h, List.drop_left]
    simp
  rw [State.frameOk, hone, Bool.or_true]

end Machine
end Sys2Proof
end

section
/-! What each operation on the state keeps of the machine's invariant. -/

namespace Sys2Proof.Machine

/-- BUF's part of the invariant: every listed address is below `4*NMAX` (R13, R40). -/
theorem State.bufOk_iff (s : State) :
    s.bufOk = true ↔ Memory.wf s.buf = true ∧ ∀ c ∈ s.buf, c.1 < s.cfg.bufBytes := by
  simp only [State.bufOk, Bool.and_eq_true, List.all_eq_true, decide_eq_true_eq]

variable {s : State}

theorem State.inv_succeed (h : s.inv = true) : s.succeed.inv = true := by
  obtain ⟨hcfg, hbuf, -, hres, hcur, hfrm⟩ := s.inv_iff.1 h
  exact s.succeed.inv_iff.2 ⟨hcfg, hbuf, rfl, hres, hcur, hfrm⟩

/-- `fail C` of any code but the one the engine never produces (R200, R201, R207). -/
theorem State.inv_fail {c : ResultCode} (hc : c ≠ .invalidKeyLength) (h : s.inv = true) : (s.fail c).inv = true := by
  obtain ⟨hcfg, hbuf, -, hres, hcur, hfrm⟩ := s.inv_iff.1 h
  have hst : (s.fail c).statusOk = true := by
    simp only [State.statusOk, State.fail_code, State.fail_fault, hc, ne_eq, not_false_eq_true, decide_true, Bool.true_and]
    cases c.fatal <;> simp
  exact (s.fail c).inv_iff.2 ⟨hcfg, hbuf, hst, hres, hcur, hfrm⟩

theorem State.inv_faultingRead (h : s.inv = true) : s.faultingRead.inv = true :=
  State.inv_fail (c := .accessFault) (by decide) h

theorem State.inv_faultingWrite (h : s.inv = true) : s.faultingWrite.inv = true :=
  State.inv_fail (c := .accessFault) (by decide) h

/-- A byte is a number up to 255 (R16). -/
theorem State.inv_setRes (b : Byte) (h : s.inv = true) : ({ s with res := b.setWidth 32 } : State).inv = true := by
  obtain ⟨hcfg, hbuf, hst, -, hcur, hfrm⟩ := s.inv_iff.1 h
  have hres : ({ s with res := b.setWidth 32 } : State).resOk = true := by
    simp only [State.resOk, decide_eq_true_eq, BitVec.toNat_setWidth]
    omega
  exact (State.inv_iff _).2 ⟨hcfg, hbuf, hst, hres, hcur, hfrm⟩

theorem State.inv_setBufByte {a : Nat} (b : Byte) (ha : a < s.cfg.bufBytes) (h : s.inv = true) :
    (s.setBufByte a b).inv = true := by
  obtain ⟨hcfg, hbuf, hst, hres, hcur, hfrm⟩ := s.inv_iff.1 h
  obtain ⟨hwf, hlt⟩ := s.bufOk_iff.1 hbuf
  have hlt' : ∀ c ∈ Memory.write s.buf a b, c.1 < s.cfg.bufBytes := by
    intro c hc
    rcases Memory.mem_write hc with hc | rfl
    · exact hlt c hc
    · exact ha
  exact (State.inv_iff _).2
    ⟨hcfg, (State.bufOk_iff _).2 ⟨Memory.write_wf _ _ _ hwf, hlt'⟩, hst, hres, hcur, hfrm⟩

theorem State.inv_setBufBytes {a : Nat} {bs : List Byte} (ha : a + bs.length ≤ s.cfg.bufBytes) (h : s.inv = true) :
    (s.setBufBytes a bs).inv = true := by
  induction bs generalizing s a with
  | nil => exact h
  | cons b bs ih =>
    rw [List.length_cons] at ha
    exact ih (by rw [State.setBufByte_cfg]; omega) (State.inv_setBufByte b (by omega) h)

theorem State.inv_setVecWord {i : Nat} (w : Word) (hi : i < s.cfg.nmax) (h : s.inv = true) :
    (s.setVecWord i w).inv = true :=
  State.inv_setBufBytes (by rw [bytesOfWord_length, Config.bufBytes]; omega) h

theorem State.inv_storeVecFrom {i : Nat} {ws : List Word} (hi : i + ws.length ≤ s.cfg.nmax) (h : s.inv = true) :
    (s.storeVecFrom i ws).inv = true := by
  induction ws generalizing s i with
  | nil => exact h
  | cons w ws ih =>
    rw [List.length_cons] at hi
    exact ih (by rw [State.setVecWord_cfg]; omega) (State.inv_setVecWord w (by omega) h)

/-- The transform of as many words as VEC has, or fewer, stays inside BUF (R100, R53). -/
theorem State.inv_encodeVec {n : Nat} (hn : n ≤ s.cfg.nmax) (h : s.inv = true) : (s.encodeVec n).inv = true :=
  State.inv_storeVecFrom (by simpa using hn) h

theorem State.inv_decodeVec {n : Nat} (hn : n ≤ s.cfg.nmax) (h : s.inv = true) : (s.decodeVec n).inv = true :=
  State.inv_storeVecFrom (by simpa using hn) h

/-- CUR's part of the invariant (R20). -/
theorem State.curOk_iff (s : State) : s.curOk = true ↔ (s.cvalid = true → s.cur.toNat ≤ 8) := by
  cases hv : s.cvalid <;> simp [State.curOk, hv]

/-- A write of KS, `HIGH`, `LOW`, `CUR` and `CVALID` that leaves CUR in range. -/
theorem State.inv_setCounter {ks : Vector Byte 8} {hi lo : Word} {cur : BitVec 4} {v : Bool} (hc : cur.toNat ≤ 8)
    (h : s.inv = true) : ({ s with ks := ks, high := hi, low := lo, cur := cur, cvalid := v } : State).inv = true := by
  obtain ⟨hcfg, hbuf, hst, hres, -, hfrm⟩ := s.inv_iff.1 h
  exact (State.inv_iff _).2 ⟨hcfg, hbuf, hst, hres, (State.curOk_iff _).2 fun _ => hc, hfrm⟩

theorem State.inv_regen (h : s.inv = true) : s.regen.inv = true := by
  rw [State.regen_eq]
  exact State.inv_setCounter (by rw [State.regen_cur]; decide) h

theorem State.inv_initCounter (iv : Word) (h : s.inv = true) : (s.initCounter iv).inv = true := by
  rw [State.initCounter_eq]
  exact State.inv_setCounter (by decide) h

/-- `NextByte()` takes the cursor to 1 from a spent buffer, and one further below 8 (R135). -/
theorem State.nextByte_cur_le (hc : s.cur.toNat ≤ 8) : s.nextByte.2.cur.toNat ≤ 8 := by
  unfold State.nextByte
  split
  · simp
  · have hne : s.cur.toNat ≠ 8 := fun he => ‹¬ s.cur = 8› (BitVec.eq_of_toNat_eq he)
    change (s.cur.toNat + 1) % 16 ≤ 8
    omega

theorem State.inv_nextByte (hv : s.cvalid = true) (h : s.inv = true) : s.nextByte.2.inv = true := by
  obtain ⟨-, -, -, -, hcur, -⟩ := s.inv_iff.1 h
  rw [State.nextByte_eq]
  exact State.inv_setCounter (State.nextByte_cur_le (s.curOk_iff.1 hcur hv)) h

@[simp] theorem State.nextByte_cfg (s : State) : s.nextByte.2.cfg = s.cfg := by rw [State.nextByte_eq]

@[simp] theorem State.nextByte_cvalid (s : State) : s.nextByte.2.cvalid = s.cvalid := by rw [State.nextByte_eq]

/-- XORing the stream into bytes that are all in BUF (R136). -/
theorem State.inv_xorStream {a n : Nat} (ha : a + n ≤ s.cfg.bufBytes) (hv : s.cvalid = true) (h : s.inv = true) :
    (s.xorStream a n).inv = true := by
  induction n generalizing s a with
  | zero => exact h
  | succ n ih =>
    have hbyte := State.inv_setBufByte (a := a) (s.nextByte.2.bufByte a ^^^ s.nextByte.1)
      (by rw [State.nextByte_cfg]; omega) (State.inv_nextByte hv h)
    exact ih (by rw [State.setBufByte_cfg, State.nextByte_cfg]; omega)
      (by rw [State.setBufByte_cvalid, State.nextByte_cvalid, hv]) hbyte

/-- A write of FRM and `FLEN` that leaves no frame or exactly one. -/
theorem State.inv_setFrame {frm : Vector Byte 16} {flen : BitVec 5}
    (hf : ({ s with frm := frm, flen := flen } : State).frameOk = true) (h : s.inv = true) :
    ({ s with frm := frm, flen := flen } : State).inv = true := by
  obtain ⟨hcfg, hbuf, hst, hres, hcur, -⟩ := s.inv_iff.1 h
  exact (State.inv_iff _).2 ⟨hcfg, hbuf, hst, hres, hcur, hf⟩

theorem State.inv_putFrame {l o : Byte} {p : List Byte} {i : Instr} (hp : p.length ≤ 14)
    (hd : decodeWire s.cfg (l :: o :: p) = .ok i) (h : s.inv = true) : (s.putFrame l o p).inv = true :=
  State.inv_setFrame (State.putFrame_frameOk s hp hd) h

theorem State.inv_moveFrame (key : Key) (h : s.inv = true) : (s.moveFrame key).inv = true := by
  have hl := movePayload_length s.cfg.byteOrder key s.arg0 s.arg1
  rw [State.moveFrame]
  exact State.inv_putFrame (hl.trans_le (by decide)) (decodeWire_move s.cfg hl) h

/-- The reset event starts again with zeros, and with a BUF that lists no address outside (R220). -/
theorem State.inv_resetEvent (h : s.inv = true) : s.resetEvent.inv = true := by
  obtain ⟨hcfg, -, -, -, -, -⟩ := s.inv_iff.1 h
  exact (State.inv_iff _).2
    ⟨hcfg, (State.bufOk_iff _).2 ⟨Memory.ofBytes_wf _ _, fun _ => Memory.ofBytes_lt⟩, rfl, rfl, rfl,
      by simp [State.frameOk, State.noFrame]⟩

end Sys2Proof.Machine
end

section
/-! Every step keeps the machine's invariant (O9): instructions, then the port, then the host software, then the step. -/

namespace Sys2Proof.Machine

/-- The next state, where the outcome is one, has the invariant. -/
def NextInv : Result → Prop
  | .next t => t.inv = true
  | .fault _ => True
  | .refused _ => True

theorem NextInv.of_eq {r : Result} {t : State} (h : NextInv r) (hr : r = .next t) : t.inv = true := by
  subst hr
  exact h

variable {s : State}

/-- Writing to the link changes the environment only, of which the invariant says nothing (R170). -/
theorem State.sendFrame_inv (s : State) (bs : List Byte) : (s.sendFrame bs).inv = s.inv := rfl

/-- A check in front of an operation: where it fails an error is reported, and the rest is not run (R201, R214). -/
theorem nextInv_guard {c : ResultCode} {bad : Prop} [Decidable bad] {r : Result} (hc : c ≠ .invalidKeyLength)
    (h : s.inv = true) (hr : ¬ bad → NextInv r) : NextInv (if bad then .next (s.fail c) else r) := by
  split
  · exact State.inv_fail hc h
  · exact hr ‹_›

theorem execXform_nextInv (n : Int) (h : s.inv = true) : NextInv (execXform n s) := by
  unfold execXform
  split
  · exact nextInv_guard (by decide) h fun _ => State.inv_succeed (State.inv_encodeVec (by omega) h)
  · split
    · exact nextInv_guard (by decide) h fun _ => State.inv_succeed (State.inv_decodeVec (by omega) h)
    · exact State.inv_fail (by decide) h

theorem execEncb_nextInv (len : Nat) (h : s.inv = true) : NextInv (execEncb len s) :=
  nextInv_guard (by decide) h fun _ => nextInv_guard (by decide) h fun hn =>
    State.inv_succeed (State.inv_encodeVec (Nat.le_of_not_lt hn) h)

theorem execDecb_nextInv (len : Nat) (h : s.inv = true) : NextInv (execDecb len s) :=
  nextInv_guard (by decide) h fun _ => nextInv_guard (by decide) h fun hn =>
    State.inv_succeed (State.inv_decodeVec (Nat.le_of_not_lt hn) h)

theorem execCtrregen_nextInv (h : s.inv = true) : NextInv (execCtrregen s) :=
  nextInv_guard (by decide) h fun _ => State.inv_succeed (State.inv_regen h)

theorem execCtrnext_nextInv (h : s.inv = true) : NextInv (execCtrnext s) :=
  nextInv_guard (by decide) h fun hv =>
    State.inv_succeed (State.inv_setRes _ (State.inv_nextByte (by simpa using hv) h))

theorem execCtrxor_nextInv (len : Nat) (h : s.inv = true) : NextInv (execCtrxor len s) :=
  nextInv_guard (by decide) h fun hv => nextInv_guard (by decide) h fun hn =>
    State.inv_succeed (State.inv_xorStream (by omega) (by simpa using hv) h)

/-- Every instruction keeps the invariant. -/
theorem exec_nextInv (i : Instr) (h : s.inv = true) : NextInv (exec i s) := by
  cases i with
  | xform n => exact execXform_nextInv n h
  | encb len => exact execEncb_nextInv len h
  | decb len => exact execDecb_nextInv len h
  | ctrinit0 => exact State.inv_succeed (State.inv_initCounter 0 h)
  | ctrinit => exact State.inv_succeed (State.inv_initCounter s.arg0 h)
  | ctrregen => exact execCtrregen_nextInv h
  | ctrnext => exact execCtrnext_nextInv h
  | ctrxor len => exact execCtrxor_nextInv len h
  | frqry => exact State.inv_succeed (State.inv_putFrame (by decide) (decodeWire_queryMatLoaded s.cfg) h)
  | frstart => exact State.inv_succeed (State.inv_putFrame (by decide) (decodeWire_startCut s.cfg) h)
  | frstop => exact State.inv_succeed (State.inv_putFrame (by decide) (decodeWire_stopCut s.cfg) h)
  | frmvu => exact State.inv_succeed (State.inv_moveFrame s.cfg.keyPenUp h)
  | frmvd => exact State.inv_succeed (State.inv_moveFrame s.cfg.keyPenDown h)
  | wireQueryMatLoaded => exact (State.sendFrame_inv s _).trans h
  | wireStartCut => exact (State.sendFrame_inv s _).trans h
  | wireStopCut => exact (State.sendFrame_inv s _).trans h
  | wireMovePenUp payload => exact (State.sendFrame_inv s _).trans h
  | wireMovePenDown payload => exact (State.sendFrame_inv s _).trans h

/-! ## The port -/

theorem State.answer_inv (s : State) (v : Word) : (s.answer v).inv = s.inv := rfl

theorem State.noData_inv (s : State) : s.noData.inv = s.inv := rfl

/-- A storage register is `ARG0`, `ARG1` or a word of `K`, none of which the invariant reads (R48). -/
theorem State.setReg_inv {index : Nat} {v : Word} {t : State} (ht : s.setReg index v = some t) : t.inv = s.inv := by
  unfold State.setReg at ht
  split at ht <;> cases ht <;> rfl

theorem issue_nextInv (v : Word) (h : s.inv = true) : NextInv (issue v s) := by
  unfold issue
  split
  · exact exec_nextInv _ h
  · exact State.inv_fail (c := .illegalOp) (by decide) h

theorem inv_regRead (index width : Nat) (h : s.inv = true) : (regRead index width s).inv = true := by
  unfold regRead
  split
  · exact State.inv_faultingRead h
  · split
    · exact (State.answer_inv s _).trans h
    · exact State.inv_faultingRead h

theorem regWrite_nextInv (index width : Nat) (v : Word) (h : s.inv = true) : NextInv (regWrite index width v s) := by
  unfold regWrite
  split
  · exact State.inv_faultingWrite h
  · split
    · exact issue_nextInv v ((State.noData_inv s).trans h)
    · split
      · next t ht => exact (State.noData_inv t).trans ((State.setReg_inv ht).trans h)
      · exact State.inv_faultingWrite h

theorem inv_memRead (space : Space) (addr n : Nat) (h : s.inv = true) : (memRead space addr n s).inv = true := by
  unfold memRead
  split
  · exact (State.answer_inv s _).trans h
  · exact State.inv_faultingRead h

/-- What a well-formed write of BUF satisfies: 1 byte inside, or 4 at a multiple of 4 wholly inside (R51). -/
theorem State.lt_of_writeOk {space : Space} {addr n : Nat} {v : Word} (h : s.writeOk space addr n v = true) :
    (n = 1 ∧ addr < s.cfg.bufBytes) ∨ (n = 4 ∧ addr % 4 = 0 ∧ addr + 4 ≤ s.cfg.bufBytes) := by
  cases space with
  | buf =>
    simp only [State.writeOk, State.accessOk, Bool.and_eq_true, Bool.or_eq_true, decide_eq_true_eq, and_assoc] at h
    obtain ⟨hok, -⟩ := h
    exact hok
  | frm => cases h

theorem inv_memWrite (space : Space) (addr n : Nat) (v : Word) (h : s.inv = true) :
    (memWrite space addr n v s).inv = true := by
  unfold memWrite
  split
  · next hw =>
    rcases State.lt_of_writeOk hw with ⟨rfl, ha⟩ | ⟨rfl, -, ha⟩
    · exact (State.noData_inv _).trans (State.inv_setBufByte _ ha h)
    · have hi : addr / 4 < s.cfg.nmax := by
        unfold Config.bufBytes at ha
        omega
      exact (State.noData_inv _).trans (State.inv_setVecWord v hi h)
  · exact State.inv_faultingWrite h

/-- Every host action keeps the invariant (R46). -/
theorem hostAction_nextInv (a : HostAction) (h : s.inv = true) : NextInv (hostAction a s) := by
  cases a with
  | regRead index width => exact inv_regRead index width h
  | regWrite index width v => exact regWrite_nextInv index width v h
  | memRead space addr n => exact inv_memRead space addr n h
  | memWrite space addr n v => exact inv_memWrite space addr n v h
  | reset => exact State.inv_resetEvent h

theorem hostActions_nextInv (as : List HostAction) (h : s.inv = true) : NextInv (hostActions as s) := by
  induction as generalizing s with
  | nil => exact h
  | cons a as ih =>
    unfold hostActions
    split
    · next t ht => exact ih ((hostAction_nextInv a h).of_eq ht)
    · trivial
    · trivial

/-! ## The host software: it changes the engine through the port only -/

theorem State.endWait_inv (s : State) (p : Pending) : (s.endWait p).inv = s.inv := by
  rw [State.endWait_eq]
  split <;> rfl

theorem State.poll_inv (s : State) (p : Pending) : (s.poll p).inv = s.inv := by
  unfold State.poll
  split
  · exact State.endWait_inv s p
  · rfl

theorem State.afterSend_inv (s : State) (p : Option Pending) : (s.afterSend p).inv = s.inv := by
  cases p with
  | none => rfl
  | some q =>
    unfold State.afterSend
    dsimp only
    split
    · exact State.poll_inv s q
    · rfl

theorem State.connect_inv (s : State) : s.connect.inv = s.inv := by
  rw [State.connect_eq]
  split
  · rfl
  · split <;> rfl

theorem State.receive_inv (s : State) (bytes : List Byte) : (s.receive bytes).inv = s.inv := by
  unfold State.receive
  dsimp only
  split
  · exact State.poll_inv _ _
  · rfl
  · rfl

theorem State.deadlineElapses_inv (s : State) : s.deadlineElapses.inv = s.inv := by
  unfold State.deadlineElapses
  split
  · exact State.endWait_inv s _
  · rfl
  · rfl

theorem buildAndSend_nextInv (build : List HostAction) (frameLen : Nat) (p : Option Pending) (h : s.inv = true) :
    NextInv (buildAndSend build frameLen p s) := by
  unfold buildAndSend
  dsimp only
  split
  · next t ht =>
    have hbuilt : t.inv = true := (hostActions_nextInv _ h).of_eq ht
    exact (State.afterSend_inv _ p).trans ((State.sendFrame_inv t _).trans hbuilt)
  · trivial
  · trivial

theorem connectedCall_nextInv (c : ClientCall) (h : s.inv = true) : NextInv (connectedCall c s) := by
  unfold connectedCall
  cases c with
  | connect => trivial
  | disconnect => exact h
  | queryMatLoaded => exact buildAndSend_nextInv _ _ _ h
  | start => exact buildAndSend_nextInv _ _ _ h
  | stop => exact buildAndSend_nextInv _ _ _ h
  | movePenUp x y => exact buildAndSend_nextInv _ _ _ h
  | movePenDown x y => exact buildAndSend_nextInv _ _ _ h
  | awaitReply n => exact (State.poll_inv s _).trans h

theorem disconnectedCall_nextInv (c : ClientCall) (h : s.inv = true) : NextInv (disconnectedCall c s) := by
  cases c with
  | connect => exact (State.connect_inv s).trans h
  | disconnect => exact h
  | queryMatLoaded | start | stop | movePenUp | movePenDown | awaitReply => trivial

theorem clientCall_nextInv (c : ClientCall) (h : s.inv = true) : NextInv (clientCall c s) := by
  unfold clientCall
  split
  · exact connectedCall_nextInv c h
  · exact disconnectedCall_nextInv c h
  · trivial

theorem sendWire_nextInv (frame : List Byte) (h : s.inv = true) : NextInv (sendWire frame s) := by
  unfold sendWire
  split
  · exact exec_nextInv _ h
  · trivial

/-- Every event keeps the invariant. -/
theorem runEvent_nextInv (e : Event) (h : s.inv = true) : NextInv (runEvent e s) := by
  cases e with
  | port a => exact hostAction_nextInv a h
  | wire frame => exact sendWire_nextInv frame h
  | call c => exact clientCall_nextInv c h
  | received bytes => exact (State.receive_inv s bytes).trans h
  | deadline => exact (State.deadlineElapses_inv s).trans h
  | linkIs d c a => exact h

theorem step_nextInv (h : s.inv = true) : NextInv (step s) := by
  unfold step
  split
  · exact h
  · next e u hu =>
    have hinv : u.inv = true := by
      rw [State.takeEvent_state s u e hu]
      exact h
    exact runEvent_nextInv e hinv

/-- Settles O9, by `step_nextInv`: the event taken is an instruction, a port access, a call or the outside's, and each
keeps every part of the invariant. -/
theorem stepKeepsTheInvariant : Obligations.StepKeepsTheInvariant :=
  fun _ _ hs ht => (step_nextInv hs).of_eq ht

end Sys2Proof.Machine
end

section
/-! What each instruction can do: one inversion lemma per operation with a check, and from these the fields each unit
writes (spec 10_state.md R11 to R23, 44_host_protocol.md R170). -/

namespace Sys2Proof.Machine

variable {s t : State} {i : Instr}

/-- A check in front of an operation: it fails with its code, or it holds and the rest is run (R201, R214). -/
theorem guard_cases {c : ResultCode} {bad : Prop} [Decidable bad] {r : Result}
    (h : (if bad then .next (s.fail c) else r) = Host.Outcome.next t) : t = s.fail c ∨ (¬ bad ∧ r = .next t) := by
  split at h
  · cases h
    exact .inl rfl
  · exact .inr ⟨‹_›, h⟩

/-- A block operation fails, or transforms the first words of VEC one way or the other (R100, R105, R106). -/
theorem exec_blockOp_cases (hi : i.isBlockOp = true) (h : exec i s = .next t) :
    (∃ c, t = s.fail c) ∨ ∃ n, t = (s.encodeVec n).succeed ∨ t = (s.decodeVec n).succeed := by
  cases i with
  | xform n =>
    change execXform n s = _ at h
    unfold execXform at h
    split at h
    · rcases guard_cases h with h | ⟨-, h⟩
      · exact .inl ⟨_, h⟩
      · cases h
        exact .inr ⟨_, .inl rfl⟩
    · split at h
      · rcases guard_cases h with h | ⟨-, h⟩
        · exact .inl ⟨_, h⟩
        · cases h
          exact .inr ⟨_, .inr rfl⟩
      · cases h
        exact .inl ⟨_, rfl⟩
  | encb len =>
    rcases guard_cases h with h | ⟨-, h⟩
    · exact .inl ⟨_, h⟩
    · rcases guard_cases h with h | ⟨-, h⟩
      · exact .inl ⟨_, h⟩
      · cases h
        exact .inr ⟨_, .inl rfl⟩
  | decb len =>
    rcases guard_cases h with h | ⟨-, h⟩
    · exact .inl ⟨_, h⟩
    · rcases guard_cases h with h | ⟨-, h⟩
      · exact .inl ⟨_, h⟩
      · cases h
        exact .inr ⟨_, .inr rfl⟩
  | _ => cases hi

/-- A block operation writes BUF and `STATUS` only. -/
theorem exec_blockOp_eq (hi : i.isBlockOp = true) (h : exec i s = .next t) :
    t = { s with buf := t.buf, code := t.code, fault := t.fault } := by
  rcases exec_blockOp_cases hi h with ⟨c, rfl⟩ | ⟨n, rfl | rfl⟩
  · rfl
  · rw [State.encodeVec_eq]
    rfl
  · rw [State.decodeVec_eq]
    rfl

theorem exec_ctrregen_cases (h : exec .ctrregen s = .next t) : t = s.fail .ctrUninit ∨ t = s.regen.succeed := by
  rcases guard_cases h with h | ⟨-, h⟩
  · exact .inl h
  · cases h
    exact .inr rfl

theorem exec_ctrnext_cases (h : exec .ctrnext s = .next t) :
    t = s.fail .ctrUninit ∨ t = ({ s.nextByte.2 with res := s.nextByte.1.setWidth 32 } : State).succeed := by
  rcases guard_cases h with h | ⟨-, h⟩
  · exact .inl h
  · cases h
    exact .inr rfl

theorem exec_ctrxor_cases {len : Nat} (h : exec (.ctrxor len) s = .next t) :
    (∃ c, t = s.fail c) ∨ t = (s.xorStream 0 len).succeed := by
  rcases guard_cases h with h | ⟨-, h⟩
  · exact .inl ⟨_, h⟩
  · rcases guard_cases h with h | ⟨-, h⟩
    · exact .inl ⟨_, h⟩
    · cases h
      exact .inr rfl

/-- `CTRINIT0` and `CTRINIT` write the counter unit and `CODE`, and set `CVALID` (R132, R133). -/
theorem exec_initsCounter_eq (hi : i.initsCounter = true) (h : exec i s = .next t) :
    t = { s with ks := t.ks, high := t.high, low := t.low, cur := t.cur, cvalid := true, code := t.code } := by
  cases i with
  | ctrinit0 | ctrinit =>
    cases h
    rw [State.initCounter_eq]
    rfl
  | _ => cases hi

/-- `CTRREGEN` writes the counter unit but `CVALID`, and `STATUS` (R134). -/
theorem exec_ctrregen_eq (h : exec .ctrregen s = .next t) :
    t = { s with ks := t.ks, high := t.high, low := t.low, cur := t.cur, code := t.code, fault := t.fault } := by
  rcases exec_ctrregen_cases h with rfl | rfl
  · rfl
  · rw [State.regen_eq]
    rfl

/-- `CTRNEXT` writes `RES` besides (R135). -/
theorem exec_ctrnext_eq (h : exec .ctrnext s = .next t) :
    t = { s with res := t.res, ks := t.ks, high := t.high, low := t.low, cur := t.cur, code := t.code,
                 fault := t.fault } := by
  rcases exec_ctrnext_cases h with rfl | rfl
  · rfl
  · rw [State.nextByte_eq]
    rfl

/-- `CTRXOR` writes BUF besides (R136). -/
theorem exec_ctrxor_eq {len : Nat} (h : exec (.ctrxor len) s = .next t) :
    t = { s with buf := t.buf, ks := t.ks, high := t.high, low := t.low, cur := t.cur, code := t.code,
                 fault := t.fault } := by
  rcases exec_ctrxor_cases h with ⟨c, rfl⟩ | rfl
  · rfl
  · rw [State.xorStream_eq]
    rfl

/-- A frame operation puts one frame in the buffer, of at most 12 payload bytes, and succeeds (R150 to R155). -/
theorem exec_frameOp_cases (hi : i.isFrameOp = true) (h : exec i s = .next t) :
    ∃ l o p, p.length ≤ 12 ∧ t = (s.putFrame l o p).succeed := by
  cases i with
  | frqry | frstart | frstop =>
    cases h
    exact ⟨_, _, [0#8, 0#8, 0#8], by decide, rfl⟩
  | frmvu | frmvd =>
    cases h
    exact ⟨_, _, _, (movePayload_length ..).le, rfl⟩
  | _ => cases hi

/-- A frame operation writes FRM, `FLEN` and `CODE` only. -/
theorem exec_frameOp_eq (hi : i.isFrameOp = true) (h : exec i s = .next t) :
    t = { s with frm := t.frm, flen := t.flen, code := t.code } := by
  obtain ⟨l, o, p, -, rfl⟩ := exec_frameOp_cases hi h
  rfl

/-- A wire frame is sent: it writes the link and the call result only (R170, R178). -/
theorem exec_wire_eq (hi : i.isCommand = false) (h : exec i s = .next t) :
    t = { s with link := t.link, callResult := t.callResult } := by
  cases i with
  | wireQueryMatLoaded | wireStartCut | wireStopCut | wireMovePenUp | wireMovePenDown =>
    cases h
    rfl
  | _ => cases hi

/-- Settles O14: each unit's instructions change no more than the fields its lemma lists, and a field that is not listed
is the old state's. -/
theorem instructionsWriteOnlyTheirUnit : Obligations.InstructionsWriteOnlyTheirUnit := by
  intro i s t h
  cases i
  case' xform | encb | decb => rw [exec_blockOp_eq rfl h]
  case' ctrinit0 | ctrinit => rw [exec_initsCounter_eq rfl h]
  case' ctrregen => rw [exec_ctrregen_eq h]
  case' ctrnext => rw [exec_ctrnext_eq h]
  case' ctrxor => rw [exec_ctrxor_eq h]
  case' frqry | frstart | frstop | frmvu | frmvd => rw [exec_frameOp_eq rfl h]
  case' wireQueryMatLoaded | wireStartCut | wireStopCut | wireMovePenUp | wireMovePenDown => rw [exec_wire_eq rfl h]
  all_goals simp [Instr.isCounterOp, Instr.isFrameOp, Instr.usesBuf, Instr.isCommand, State.bufByte]

end Sys2Proof.Machine
end

section
/-! What the host software's own acts write, and which events a step can take (spec 44_host_protocol.md R170 to R181). -/

namespace Sys2Proof.Machine

variable (s : State)

/-- The end of a wait writes the environment only: phase, call result and link (R179). -/
theorem State.endWait_frame (p : Pending) : s.endWait p =
    { s with phase := (s.endWait p).phase, callResult := (s.endWait p).callResult, link := (s.endWait p).link } := by
  rw [State.endWait_eq]
  split <;> rfl

theorem State.poll_frame (p : Pending) : s.poll p =
    { s with phase := (s.poll p).phase, callResult := (s.poll p).callResult, link := (s.poll p).link } := by
  unfold State.poll
  split
  · exact State.endWait_frame s p
  · rfl

theorem State.afterSend_frame (p : Option Pending) : s.afterSend p =
    { s with phase := (s.afterSend p).phase, callResult := (s.afterSend p).callResult, link := (s.afterSend p).link } := by
  cases p with
  | none => rfl
  | some q =>
    unfold State.afterSend
    dsimp only
    split
    · exact State.poll_frame s q
    · rfl

theorem State.connect_frame : s.connect =
    { s with phase := s.connect.phase, callResult := s.connect.callResult, link := s.connect.link } := by
  rw [State.connect_eq]
  split
  · rfl
  · split <;> rfl

theorem State.receive_frame (bytes : List Byte) : s.receive bytes =
    { s with phase := (s.receive bytes).phase, callResult := (s.receive bytes).callResult,
             link := (s.receive bytes).link } := by
  unfold State.receive
  dsimp only
  split
  · rw [State.poll_frame]
  · rfl
  · rfl

theorem State.deadlineElapses_frame : s.deadlineElapses =
    { s with phase := s.deadlineElapses.phase, callResult := s.deadlineElapses.callResult,
             link := s.deadlineElapses.link } := by
  unfold State.deadlineElapses
  split
  · exact State.endWait_frame s _
  · rfl
  · rfl

/-- Bytes that are a frame of R74 are no command word's operation. -/
theorem decodeWire_isCommand {c : Config} {bs : List Byte} {i : Instr} (h : decodeWire c bs = .ok i) :
    i.isCommand = false := by
  have hmove (p : List Byte) : (Sys2Proof.moveFrame c p).isCommand = false := by
    unfold Sys2Proof.moveFrame
    split <;> rfl
  unfold decodeWire at h
  split at h
  · split at h
    · split at h
      · cases h
        rfl
      · split at h
        · cases h
          rfl
        · split at h <;> cases h
          rfl
    · split at h
      · exact Except.ok.inj h ▸ hmove _
      · cases h
  · cases h

variable {s}

/-- A step that takes an event runs it. -/
theorem step_of_takeEvent {u : State} {e : Event} (h : s.takeEvent = some (e, u)) : step s = runEvent e u := by
  rw [step, h]

/-- The event taken out of turn is the outside's. -/
theorem fromOutside_of_takeOutside {es rest : List Event} {e : Event} (h : takeOutside es = some (e, rest)) :
    fromOutside e = true := by
  induction es generalizing rest with
  | nil => cases h
  | cons o es ih =>
    unfold takeOutside at h
    split at h
    · cases h
      assumption
    · obtain ⟨⟨e', rest'⟩, hr, heq⟩ := Option.map_eq_some_iff.1 h
      cases heq
      exact ih hr

/-- While the host is blocked only the outside acts (R181). -/
theorem fromOutside_of_takeEvent {u : State} {e : Event} (hb : s.phase.blocksHost = true)
    (h : s.takeEvent = some (e, u)) : fromOutside e = true := by
  unfold State.takeEvent at h
  rw [if_pos hb] at h
  obtain ⟨⟨e', rest⟩, hr, heq⟩ := Option.map_eq_some_iff.1 h
  cases heq
  exact fromOutside_of_takeOutside hr

/-- A host in no wait is not blocked. -/
theorem blocksHost_of_not_awaiting (h : ∀ p, s.phase ≠ .awaiting p) : s.phase.blocksHost = false := by
  cases hp : s.phase with
  | awaiting p => exact absurd hp (h p)
  | connected | disconnected => rfl

/-- The host free to act, a step runs the first event of the agenda. -/
theorem step_of_agenda {e : Event} {rest : List Event} (hf : ∀ p, s.phase ≠ .awaiting p) (ha : s.agenda = e :: rest) :
    step s = runEvent e { s with agenda := rest } := by
  apply step_of_takeEvent
  rw [State.takeEvent_free s (blocksHost_of_not_awaiting hf), ha]
  rfl

/-- The host waiting, what a step takes is what there is of the outside's (R181). -/
theorem State.takeEvent_awaiting {p : Pending} (h : s.phase = .awaiting p) :
    s.takeEvent = (takeOutside s.agenda).map fun r => (r.1, { s with agenda := r.2 }) := by
  rw [State.takeEvent, h]
  rfl

end Sys2Proof.Machine
end

section
/-! Which instruction a step runs (O6). -/

namespace Sys2Proof.Machine

/-- Settles O6, by `step_of_agenda` for a host free to act, and by what `takeOutside` takes for one that waits. -/
theorem stepRunsTheDecodedInstruction : Obligations.StepRunsTheDecodedInstruction := by
  refine ⟨fun s v rest i hf ha hd => ?_, fun s bs rest i hf ha hd => ?_, fun s p own e rest hp ha ho he => ?_,
    fun s p hp ha => ?_⟩
  · rw [step_of_agenda hf ha]
    change issue v _ = _
    rw [issue, hd]
    rfl
  · rw [step_of_agenda hf ha]
    change sendWire bs _ = _
    simp only [sendWire, hd]
  · apply step_of_takeEvent
    rw [State.takeEvent_awaiting hp, ha, takeOutside_append own rest e ho he]
    rfl
  · have hnone : s.takeEvent = none := by
      rw [State.takeEvent_awaiting hp, takeOutside_none _ ha]
      rfl
    rw [step, hnone]

end Sys2Proof.Machine
end

section
/-! What a port access can do, and when a step changes `CVALID` (O13; spec 10_state.md R17, 20_memory.md R46 to R52). -/

namespace Sys2Proof.Machine

variable {s t : State}

/-- A `CMD` write performs its operation, or its word is illegal (R48, R73). -/
theorem issue_cases {v : Word} (h : issue v s = .next t) :
    (∃ i, decode v = .ok i ∧ exec i s = .next t) ∨ t = s.fail .illegalOp := by
  unfold issue at h
  split at h
  · exact .inl ⟨_, ‹_›, h⟩
  · cases h
    exact .inr rfl

theorem regRead_cases (index width : Nat) (s : State) :
    regRead index width s = s.faultingRead ∨ ∃ v, regRead index width s = s.answer v := by
  unfold regRead
  split
  · exact .inl rfl
  · split
    · exact .inr ⟨_, rfl⟩
    · exact .inl rfl

theorem memRead_cases (space : Space) (addr n : Nat) (s : State) :
    memRead space addr n s = s.faultingRead ∨ ∃ v, memRead space addr n s = s.answer v := by
  unfold memRead
  split
  · exact .inr ⟨_, rfl⟩
  · exact .inl rfl

/-- A register write faults, issues an operation, or stores in `ARG0`, `ARG1` or `K` (R48, R49). -/
theorem regWrite_cases {index width : Nat} {v : Word} (h : regWrite index width v s = .next t) :
    t = s.faultingWrite ∨ (index = 0 ∧ width = 32 ∧ issue v s.noData = .next t) ∨
      t = { s with arg0 := t.arg0, arg1 := t.arg1, k := t.k, reply := .none } := by
  unfold regWrite at h
  split at h
  · cases h
    exact .inl rfl
  · next hw =>
    split at h
    · exact .inr (.inl ⟨‹_›, not_not.1 hw, h⟩)
    · split at h
      · next u hu =>
        cases h
        refine .inr (.inr ?_)
        unfold State.setReg at hu
        split at hu <;> cases hu <;> rfl
      · cases h
        exact .inl rfl

/-- A memory write faults, or writes BUF (R51, R52). -/
theorem memWrite_cases (space : Space) (addr n : Nat) (v : Word) (s : State) :
    memWrite space addr n v s = s.faultingWrite ∨
      memWrite space addr n v s = { s with buf := (memWrite space addr n v s).buf, reply := .none } := by
  unfold memWrite
  split
  · split
    · exact .inr rfl
    · rw [State.setVecWord_eq]
      exact .inr rfl
  · exact .inl rfl

/-- No instruction clears `CVALID`, and the two initialisations set it (R17). -/
theorem exec_cvalid {i : Instr} (h : exec i s = .next t) : t.cvalid = (s.cvalid || i.initsCounter) := by
  cases i
  case ctrinit0 | ctrinit =>
    rw [exec_initsCounter_eq rfl h]
    exact (Bool.or_true _).symm
  case' xform | encb | decb => rw [exec_blockOp_eq rfl h]
  case' ctrregen => rw [exec_ctrregen_eq h]
  case' ctrnext => rw [exec_ctrnext_eq h]
  case' ctrxor => rw [exec_ctrxor_eq h]
  case' frqry | frstart | frstop | frmvu | frmvd => rw [exec_frameOp_eq rfl h]
  case' wireQueryMatLoaded | wireStartCut | wireStopCut | wireMovePenUp | wireMovePenDown => rw [exec_wire_eq rfl h]
  all_goals exact (Bool.or_false _).symm

/-- The action writes to `CMD` a word that decodes to `CTRINIT` or `CTRINIT0`. -/
def IssuesInit (a : HostAction) : Prop :=
  ∃ v i, a = .regWrite 0 32 v ∧ decode v = .ok i ∧ i.initsCounter = true

/-- What a port action can do to `CVALID` (R17, R220). -/
theorem hostAction_cvalid {a : HostAction} (h : hostAction a s = .next t) :
    t.cvalid = s.cvalid ∨ (IssuesInit a ∧ t.cvalid = true) ∨ (a = .reset ∧ t.cvalid = false) := by
  cases a with
  | regRead index width =>
    cases h
    rcases regRead_cases index width s with hr | ⟨v, hr⟩ <;> rw [hr]
    · exact .inl s.faultingRead_cvalid
    · exact .inl (s.answer_cvalid v)
  | regWrite index width v =>
    rcases regWrite_cases h with rfl | ⟨rfl, rfl, h⟩ | h
    · exact .inl s.faultingWrite_cvalid
    · rcases issue_cases h with ⟨i, hd, h⟩ | rfl
      · cases hi : i.initsCounter with
        | false => exact .inl (by rw [exec_cvalid h, hi, Bool.or_false, State.noData_cvalid])
        | true => exact .inr (.inl ⟨⟨v, i, rfl, hd, hi⟩, by rw [exec_cvalid h, hi, Bool.or_true]⟩)
      · exact .inl rfl
    · exact .inl (by rw [h])
  | memRead space addr n =>
    cases h
    rcases memRead_cases space addr n s with hr | ⟨v, hr⟩ <;> rw [hr]
    · exact .inl s.faultingRead_cvalid
    · exact .inl (s.answer_cvalid v)
  | memWrite space addr n v =>
    cases h
    rcases memWrite_cases space addr n v s with hr | hr <;> rw [hr]
    · exact .inl s.faultingWrite_cvalid
    · exact .inl rfl
  | reset =>
    cases h
    exact .inr (.inr ⟨rfl, s.resetEvent_cvalid⟩)

/-- An action that neither resets nor starts the counter. -/
def LeavesCvalid (a : HostAction) : Prop := a ≠ .reset ∧ ¬ IssuesInit a

theorem hostAction_cvalid_eq {a : HostAction} (ha : LeavesCvalid a) (h : hostAction a s = .next t) :
    t.cvalid = s.cvalid := by
  obtain ⟨hreset, hinit⟩ := ha
  rcases hostAction_cvalid h with h | ⟨h, -⟩ | ⟨h, -⟩
  · exact h
  · exact absurd h hinit
  · exact absurd h hreset

theorem hostActions_cvalid_eq {as : List HostAction} (ha : ∀ a ∈ as, LeavesCvalid a) (h : hostActions as s = .next t) :
    t.cvalid = s.cvalid := by
  induction as generalizing s with
  | nil =>
    cases h
    rfl
  | cons a as ih =>
    rw [List.forall_mem_cons] at ha
    obtain ⟨hhead, htail⟩ := ha
    unfold hostActions at h
    split at h
    · next u hu => exact (ih htail h).trans (hostAction_cvalid_eq hhead hu)
    · cases h
    · cases h

theorem leavesCvalid_issueAction {i : Instr} (hd : decode (commandWord i) = .ok i) (hi : i.initsCounter = false) :
    LeavesCvalid (issueAction i) := by
  refine ⟨nofun, ?_⟩
  rintro ⟨v, j, ha, hj, hinit⟩
  cases ha
  cases hd.symm.trans hj
  exact Bool.noConfusion (hi.symm.trans hinit)

theorem leavesCvalid_setrAction {r : RegName} (hr : r.index ≠ 0) (v : Word) : LeavesCvalid (setrAction r v) := by
  refine ⟨nofun, ?_⟩
  rintro ⟨w, i, ha, -, -⟩
  exact hr (HostAction.regWrite.inj ha).1

theorem leavesCvalid_regRead (index width : Nat) : LeavesCvalid (.regRead index width) := ⟨nofun, nofun⟩

theorem leavesCvalid_memRead (space : Space) (addr n : Nat) : LeavesCvalid (.memRead space addr n) := ⟨nofun, nofun⟩

/-- A host call that builds and sends a frame leaves `CVALID` alone if its own actions do (R175 to R177). -/
theorem buildAndSend_cvalid {build : List HostAction} {frameLen : Nat} {p : Option Pending}
    (hb : ∀ a ∈ build, LeavesCvalid a) (h : buildAndSend build frameLen p s = .next t) : t.cvalid = s.cvalid := by
  unfold buildAndSend at h
  dsimp only at h
  split at h
  · next u hu =>
    cases h
    have hall : ∀ a ∈ build ++ HostAction.regRead 5 32 :: (List.range frameLen).map fun i => HostAction.memRead .frm i 1,
        LeavesCvalid a := by
      simp only [List.forall_mem_append, List.forall_mem_cons, List.forall_mem_map]
      exact ⟨hb, leavesCvalid_regRead 5 32, fun i _ => leavesCvalid_memRead .frm i 1⟩
    have hkept : u.cvalid = s.cvalid := hostActions_cvalid_eq hall hu
    rw [State.afterSend_frame]
    exact hkept
  · cases h
  · cases h

theorem leavesCvalid_mv {x y : Word} {i : Instr} (hd : decode (commandWord i) = .ok i) (hi : i.initsCounter = false) :
    ∀ a ∈ [setrAction .ARG0 x, setrAction .ARG1 y, issueAction i], LeavesCvalid a := by
  simp only [List.forall_mem_cons]
  exact ⟨leavesCvalid_setrAction (by decide) x, leavesCvalid_setrAction (by decide) y, leavesCvalid_issueAction hd hi, nofun⟩

theorem connectedCall_cvalid {c : ClientCall} (h : connectedCall c s = .next t) : t.cvalid = s.cvalid := by
  cases c <;> dsimp only [connectedCall, Asm.expand] at h
  case connect => cases h
  case disconnect =>
    cases h
    rfl
  case queryMatLoaded =>
    exact buildAndSend_cvalid (List.forall_mem_singleton.2 (leavesCvalid_issueAction rfl rfl)) h
  case start => exact buildAndSend_cvalid (List.forall_mem_singleton.2 (leavesCvalid_issueAction rfl rfl)) h
  case stop => exact buildAndSend_cvalid (List.forall_mem_singleton.2 (leavesCvalid_issueAction rfl rfl)) h
  case movePenUp x y => exact buildAndSend_cvalid (leavesCvalid_mv rfl rfl) h
  case movePenDown x y => exact buildAndSend_cvalid (leavesCvalid_mv rfl rfl) h
  case awaitReply n =>
    cases h
    rw [State.poll_frame]

theorem disconnectedCall_cvalid {c : ClientCall} (h : disconnectedCall c s = .next t) : t.cvalid = s.cvalid := by
  cases c with
  | connect =>
    cases h
    rw [State.connect_frame]
  | disconnect =>
    cases h
    rfl
  | queryMatLoaded | start | stop | movePenUp | movePenDown | awaitReply => cases h

/-- No host call starts the counter or resets the engine: it builds frames at most (R172 to R179). -/
theorem clientCall_cvalid {c : ClientCall} (h : clientCall c s = .next t) : t.cvalid = s.cvalid := by
  unfold clientCall at h
  split at h
  · exact connectedCall_cvalid h
  · exact disconnectedCall_cvalid h
  · cases h

theorem sendWire_cvalid {frame : List Byte} (h : sendWire frame s = .next t) : t.cvalid = s.cvalid := by
  unfold sendWire at h
  split at h
  · next i hd => rw [exec_wire_eq (decodeWire_isCommand hd) h]
  · cases h

/-- What an event can do to `CVALID`: only the port reaches it. -/
theorem runEvent_cvalid {e : Event} (h : runEvent e s = .next t) :
    t.cvalid = s.cvalid ∨ (∃ a, e = .port a ∧ IssuesInit a ∧ t.cvalid = true) ∨ (e = .port .reset ∧ t.cvalid = false) := by
  cases e with
  | port a =>
    rcases hostAction_cvalid h with hc | hc | ⟨rfl, hc⟩
    · exact .inl hc
    · exact .inr (.inl ⟨a, rfl, hc⟩)
    · exact .inr (.inr ⟨rfl, hc⟩)
  | wire frame => exact .inl (sendWire_cvalid h)
  | call c => exact .inl (clientCall_cvalid h)
  | received bytes =>
    cases h
    rw [State.receive_frame]
    exact .inl rfl
  | deadline =>
    cases h
    rw [State.deadlineElapses_frame]
    exact .inl rfl
  | linkIs d c a =>
    cases h
    exact .inl rfl

/-- Settles O13, by `runEvent_cvalid`: `CVALID` keeps its value, or is set by an initialisation, or is cleared by the reset
event. -/
theorem cvalidSetByInitClearedByReset : Obligations.CvalidSetByInitClearedByReset := by
  intro s t u e hu ht
  have hsame : u.cvalid = s.cvalid := by rw [State.takeEvent_state s u e hu]
  rw [step_of_takeEvent hu] at ht
  rcases runEvent_cvalid ht with h | ⟨a, rfl, ⟨v, i, rfl, hd, hi⟩, h⟩ | ⟨rfl, h⟩
  · rw [h, hsame]
    exact ⟨fun h0 h1 => Bool.noConfusion (h0.symm.trans h1), fun h1 h0 => Bool.noConfusion (h1.symm.trans h0)⟩
  · exact ⟨fun _ _ => ⟨v, i, rfl, hd, hi⟩, fun _ h0 => Bool.noConfusion (h.symm.trans h0)⟩
  · exact ⟨fun _ h1 => Bool.noConfusion (h.symm.trans h1), fun _ _ => rfl⟩

end Sys2Proof.Machine
end

section
/-! Which events have a next state (O8; spec 10_state.md R10, 44_host_protocol.md R172, 70_reset_and_hazards.md R230). -/

namespace Sys2Proof.Machine

/-- The outcome is a next state. -/
def Completes (r : Result) : Prop := ∃ t, r = .next t

theorem completes_next (t : State) : Completes (.next t) := ⟨t, rfl⟩

/-- Whatever a check decides, an operation whose two ways both have a next state has one. -/
theorem completes_ite {p : Prop} [Decidable p] {a b : Result} (ha : Completes a) (hb : Completes b) :
    Completes (if p then a else b) := by
  split
  · exact ha
  · exact hb

/-- No instruction stops the machine: each check that fails is reported in `STATUS` (R201, R215, R230). -/
theorem exec_completes (i : Instr) (s : State) : Completes (exec i s) := by
  cases i with
  | xform n =>
    exact completes_ite (completes_ite (completes_next _) (completes_next _))
      (completes_ite (completes_ite (completes_next _) (completes_next _)) (completes_next _))
  | encb len | decb len => exact completes_ite (completes_next _) (completes_ite (completes_next _) (completes_next _))
  | ctrregen | ctrnext => exact completes_ite (completes_next _) (completes_next _)
  | ctrxor len => exact completes_ite (completes_next _) (completes_ite (completes_next _) (completes_next _))
  | ctrinit0 | ctrinit | frqry | frstart | frstop | frmvu | frmvd => exact completes_next _
  | wireQueryMatLoaded | wireStartCut | wireStopCut | wireMovePenUp | wireMovePenDown => exact completes_next _

theorem issue_completes (v : Word) (s : State) : Completes (issue v s) := by
  unfold issue
  split
  · exact exec_completes _ s
  · exact completes_next _

theorem regWrite_completes (index width : Nat) (v : Word) (s : State) : Completes (regWrite index width v s) := by
  unfold regWrite
  refine completes_ite (completes_next _) (completes_ite (issue_completes v _) ?_)
  split <;> exact completes_next _

/-- The engine takes every action of the port in every state (R230). -/
theorem hostAction_completes (a : HostAction) (s : State) : Completes (hostAction a s) := by
  cases a with
  | regWrite index width v => exact regWrite_completes index width v s
  | regRead | memRead | memWrite | reset => exact completes_next _

theorem hostActions_completes (as : List HostAction) (s : State) : Completes (hostActions as s) := by
  induction as generalizing s with
  | nil => exact completes_next s
  | cons a as ih =>
    obtain ⟨t, ht⟩ := hostAction_completes a s
    unfold hostActions
    rw [ht]
    exact ih t

theorem buildAndSend_completes (build : List HostAction) (frameLen : Nat) (p : Option Pending) (s : State) :
    Completes (buildAndSend build frameLen p s) := by
  obtain ⟨t, ht⟩ := hostActions_completes
    (build ++ HostAction.regRead 5 32 :: (List.range frameLen).map fun i => HostAction.memRead .frm i 1) s
  simp only [buildAndSend, ht]
  exact completes_next _

theorem connectedCall_completes {c : ClientCall} (hc : c ≠ .connect) (s : State) : Completes (connectedCall c s) := by
  unfold connectedCall
  cases c with
  | connect => exact absurd rfl hc
  | disconnect | awaitReply => exact completes_next _
  | queryMatLoaded | start | stop | movePenUp | movePenDown => exact buildAndSend_completes _ _ _ s

theorem disconnectedCall_completes {c : ClientCall} (hc : c = .connect ∨ c = .disconnect) (s : State) :
    Completes (disconnectedCall c s) := by
  rcases hc with rfl | rfl
  · exact completes_next _
  · exact completes_next _

theorem disconnectedCall_refused {c : ClientCall} (h1 : c ≠ .connect) (h2 : c ≠ .disconnect) (s : State) :
    disconnectedCall c s = .refused (.callOutsideProtocol c) := by
  cases c with
  | connect => exact absurd rfl h1
  | disconnect => exact absurd rfl h2
  | queryMatLoaded | start | stop | movePenUp | movePenDown | awaitReply => rfl

/-- A call that R172 gives no place in the phase (assumption 7). -/
def Misplaced (ph : Phase) (c : ClientCall) : Prop :=
  (ph = .disconnected ∧ c ≠ .connect ∧ c ≠ .disconnect) ∨ (ph = .connected ∧ c = .connect)

theorem clientCall_refused {c : ClientCall} {s : State} (h : Misplaced s.phase c) :
    clientCall c s = .refused (.callOutsideProtocol c) := by
  unfold clientCall
  rcases h with ⟨hp, h1, h2⟩ | ⟨hp, rfl⟩ <;> rw [hp]
  · exact disconnectedCall_refused h1 h2 s
  · rfl

/-- A call in its place, of a host that is not blocked, has a next state (R172, R181). -/
theorem clientCall_completes {c : ClientCall} {s : State} (hb : s.phase.blocksHost = false)
    (h : ¬ Misplaced s.phase c) : Completes (clientCall c s) := by
  unfold clientCall
  cases hp : s.phase with
  | connected => exact connectedCall_completes (fun hc => h (.inr ⟨hp, hc⟩)) s
  | disconnected =>
    refine disconnectedCall_completes (by_contra fun hc => h (.inl ⟨hp, ?_⟩)) s
    exact not_or.1 hc
  | awaiting p =>
    rw [hp] at hb
    cases hb

theorem sendWire_refused {bs : List Byte} {s : State} (h : ∀ i, decodeWire s.cfg bs ≠ .ok i) :
    sendWire bs s = .refused .notAWireFrame := by
  unfold sendWire
  split
  · exact absurd ‹_› (h _)
  · rfl

theorem sendWire_completes {bs : List Byte} {i : Instr} {s : State} (h : decodeWire s.cfg bs = .ok i) :
    Completes (sendWire bs s) := by
  rw [sendWire, h]
  exact exec_completes i s

/-- Every event but a misplaced call and bytes that are no frame has a next state. -/
theorem runEvent_completes {e : Event} {s : State}
    (hc : ∀ c, e = .call c → s.phase.blocksHost = false ∧ ¬ Misplaced s.phase c)
    (hw : ∀ bs, e = .wire bs → ∃ i, decodeWire s.cfg bs = .ok i) : Completes (runEvent e s) := by
  cases e with
  | port a => exact hostAction_completes a s
  | wire bs =>
    obtain ⟨i, hi⟩ := hw bs rfl
    exact sendWire_completes hi
  | call c =>
    obtain ⟨hb, hm⟩ := hc c rfl
    exact clientCall_completes hb hm
  | received | deadline | linkIs => exact completes_next _

/-- A call is taken only from a host that is not blocked (R181). -/
theorem blocksHost_of_takeEvent_call {s u : State} {c : ClientCall} (h : s.takeEvent = some (.call c, u)) :
    s.phase.blocksHost = false := by
  cases hb : s.phase.blocksHost with
  | false => rfl
  | true => cases fromOutside_of_takeEvent hb h

theorem step_of_takeEvent_none {s : State} (h : s.takeEvent = none) : step s = .next s := by rw [step, h]

/-- An empty agenda has no event to take, for a host that waits and for one that does not (R10). -/
theorem takeEvent_of_quiescent {s : State} (h : s.quiescent = true) : s.takeEvent = none := by
  have ha : s.agenda = [] := of_decide_eq_true h
  unfold State.takeEvent
  rw [ha]
  split <;> rfl

/-- Settles O8: the port by `hostAction_completes`, a run event by its kind, on a state that differs from the first in its
agenda only. -/
theorem engineNeverStopsNorActsAlone : Obligations.EngineNeverStopsNorActsAlone := by
  refine ⟨hostAction_completes, fun s h => step_of_takeEvent_none (takeEvent_of_quiescent h),
    fun s => step_of_takeEvent_none, fun s u e hu => ?_⟩
  intro misplaced
  have hstate := State.takeEvent_state s u e hu
  have hphase : u.phase = s.phase := by rw [hstate]
  have hcfg : u.cfg = s.cfg := by rw [hstate]
  rw [step_of_takeEvent hu]
  refine ⟨?_, ?_, fun hc hw => ?_⟩
  · rintro c rfl hm
    exact clientCall_refused (hphase ▸ hm)
  · rintro bs rfl hn
    exact sendWire_refused (hcfg ▸ hn)
  · refine runEvent_completes (fun c he => ?_) (hcfg ▸ hw)
    rw [hphase]
    exact ⟨blocksHost_of_takeEvent_call (he ▸ hu), hc c he⟩

end Sys2Proof.Machine
end

section
/-! The registers as the host reads them: `STATUS`, the register map, and the values after reset (O15, O46, O47, O55; spec
10_state.md R17, R20 to R25, 20_memory.md R47). -/

namespace Sys2Proof.Machine

variable (s : State)

/-- The fields of `STATUS` put together: zeros above, between and nothing lost (R17). -/
theorem State.statusWord_toNat : s.statusWord.toNat =
    s.code.value.toNat + (if s.fault then 256 else 0) + (if s.cvalid then 512 else 0) := by
  unfold State.statusWord
  cases s.cvalid <;> cases s.fault <;> cases s.code <;> rfl

theorem ResultCode.fatal_eq_false_iff (c : ResultCode) : c.fatal = false ↔ c = .ok ∨ c = .degenerate := by
  cases c <;> simp [ResultCode.fatal]

/-- Settles O15, by `State.statusWord_toNat`; the numbers of the codes are the table of R200. -/
theorem statusWordFields : Obligations.StatusWordFields :=
  ⟨State.statusWord_toNat, rfl, rfl, rfl, rfl, rfl, rfl, rfl, rfl, ResultCode.fatal_eq_false_iff⟩

variable {s}

/-- A whole read of a readable register answers its value and changes the reply only (R47). -/
theorem hostAction_regRead {index : Nat} {v : Word} (h : s.regValue index = some v) :
    hostAction (.regRead index 32) s = .next { s with reply := .data v } := by
  simp only [hostAction, regRead, h]
  rfl

theorem State.counterRead_of_cvalid (h : s.cvalid = true) (index : Nat) (held : Word) :
    s.counterRead index held = held := by
  rw [State.counterRead, h]
  rfl

theorem State.counterRead_of_not_cvalid (h : s.cvalid = false) (index : Nat) (held : Word) :
    s.counterRead index held = Config.uninitCounterRead s.resets index := by
  rw [State.counterRead, h]
  rfl

/-- Once the counter is initialised `CUR` reads as its 4 bits, zero-extended (R20). -/
theorem State.curRead_of_cvalid (h : s.cvalid = true) : s.curRead = s.cur.setWidth 32 := by
  rw [State.curRead, State.counterRead_of_cvalid h]
  apply BitVec.eq_of_toNat_eq
  have hlt := s.cur.isLt
  simp only [BitVec.toNat_setWidth, BitVec.extractLsb'_toNat, Nat.shiftRight_zero]
  omega

/-- Settles O46: every register by `hostAction_regRead`, the counter's with the value they hold while `CVALID = 1`. -/
theorem registerReads : Obligations.RegisterReads := by
  refine fun s => ⟨hostAction_regRead rfl, hostAction_regRead rfl, hostAction_regRead rfl, hostAction_regRead rfl,
    hostAction_regRead rfl, hostAction_regRead rfl, hostAction_regRead rfl, hostAction_regRead rfl,
    hostAction_regRead rfl, fun h => ⟨hostAction_regRead ?_, hostAction_regRead ?_, hostAction_regRead ?_⟩⟩
  · exact congrArg some (State.counterRead_of_cvalid h 6 s.high)
  · exact congrArg some (State.counterRead_of_cvalid h 7 s.low)
  · exact congrArg some (State.curRead_of_cvalid h)

/-- What `HIGH`, `LOW` and `CUR` read as before the counter is initialised: the free value of the number of resets, of which
`CUR` takes the low 4 bits (R20, R21). -/
def uninitRead (resets index : Nat) : Word :=
  if index = 8 then ((Config.uninitCounterRead resets 8).extractLsb' 0 4).setWidth 32
  else Config.uninitCounterRead resets index

theorem regValue_of_not_cvalid (h : s.cvalid = false) {i : Nat} (hi : i = 6 ∨ i = 7 ∨ i = 8) :
    s.regValue i = some (uninitRead s.resets i) := by
  rcases hi with rfl | rfl | rfl
  · exact congrArg some (State.counterRead_of_not_cvalid h 6 s.high)
  · exact congrArg some (State.counterRead_of_not_cvalid h 7 s.low)
  · exact congrArg (fun w : Word => some ((w.extractLsb' 0 4).setWidth 32))
      (State.counterRead_of_not_cvalid h 8 (s.cur.setWidth 32))

theorem uninitRead_cur_lt (resets : Nat) : (uninitRead resets 8).toNat < 16 := by
  rw [uninitRead, if_pos rfl, BitVec.toNat_setWidth]
  omega

/-- Settles O47: the word depends on `CVALID`, the number of resets and the index only, and no read changes these. -/
theorem uninitialisedCounterReadsAreStable : Obligations.UninitialisedCounterReadsAreStable := by
  refine fun s i hv hi => ⟨uninitRead s.resets i, hostAction_regRead (regValue_of_not_cvalid hv hi),
    hostAction_regRead (regValue_of_not_cvalid hv hi),
    fun h l c => hostAction_regRead (regValue_of_not_cvalid (s := { s with high := h, low := l, cur := c }) hv hi), ?_⟩
  rintro rfl
  exact uninitRead_cur_lt s.resets

/-- `STATUS` is 0 when nothing is reported, recorded or initialised. -/
theorem State.statusWord_eq_zero (hc : s.code = .ok) (hf : s.fault = false) (hv : s.cvalid = false) :
    s.statusWord = 0 := by
  rw [State.statusWord, hc, hf, hv]
  rfl

theorem State.frmByte_eq_zero (h : s.frm = Vector.replicate 16 0) {i : Nat} (hi : i < 16) : s.frmByte i = 0 := by
  rw [State.frmByte, h, Vector.toList_replicate, List.getD_replicate _ hi]

/-- Settles O55: the reset state and the reset event write the same zeros, and the event writes neither the configuration
nor the environment. -/
theorem resetLeavesTheSpecsValues : Obligations.ResetLeavesTheSpecsValues :=
  ⟨⟨State.statusWord_eq_zero rfl rfl rfl, rfl, rfl, fun _ => State.frmByte_eq_zero rfl⟩,
    fun s => ⟨s.resetEvent, rfl, State.statusWord_eq_zero s.resetEvent_code s.resetEvent_fault s.resetEvent_cvalid,
      s.resetEvent_res, s.resetEvent_flen, fun _ => State.frmByte_eq_zero s.resetEvent_frm, s.resetEvent_cfg,
      s.resetEvent_agenda, s.resetEvent_link, s.resetEvent_phase⟩⟩

end Sys2Proof.Machine
end

section
/-! `Decode` undoes `Encode` (spec 40_block_transform.md R102 to R104). Both procedures carry the word they wrote last; that
word is always the neighbour's, so a round is one update of each cell from its two neighbours around the array. -/

namespace Sys2Proof.Cipher

/-- What is added to cell `p` of a round: `MX` of the cell's neighbours around the first `n` words (R102, R103). -/
def mixAt (n : Nat) (key : Key) (sum : Word) (ws : List Word) (p : Nat) : Word :=
  mx (ws.getD ((p + 1) % n) 0) (ws.getD ((p + n - 1) % n) 0) sum (keySel sum) p key

/-- `W[p] = add32(W[p], MX(…))` (R102). -/
def mixCell (n : Nat) (key : Key) (sum : Word) (ws : List Word) (p : Nat) : List Word :=
  ws.set p (add32 (ws.getD p 0) (mixAt n key sum ws p))

/-- `W[p] = sub32(W[p], MX(…))` (R103). -/
def unmixCell (n : Nat) (key : Key) (sum : Word) (p : Nat) (ws : List Word) : List Word :=
  ws.set p (sub32 (ws.getD p 0) (mixAt n key sum ws p))

/-- A round of `Encode` on the words alone: the cells 0 to `n-1` in turn. -/
def mixWords (n : Nat) (key : Key) (sum : Word) (ws : List Word) : List Word :=
  (List.range n).foldl (mixCell n key sum) ws

/-- A round of `Decode` on the words alone: the cells `n-1` to 0 in turn. -/
def unmixWords (n : Nat) (key : Key) (sum : Word) (ws : List Word) : List Word :=
  (List.range n).foldr (unmixCell n key sum) ws

section
variable {n : Nat} (key : Key) (sum : Word) (ws : List Word)

@[simp] theorem mixCell_length (p : Nat) : (mixCell n key sum ws p).length = ws.length := List.length_set

@[simp] theorem unmixCell_length (p : Nat) : (unmixCell n key sum p ws).length = ws.length := List.length_set

@[simp] theorem foldl_mixCell_length (ps : List Nat) : (ps.foldl (mixCell n key sum) ws).length = ws.length := by
  induction ps generalizing ws with
  | nil => rfl
  | cons p ps ih => rw [List.foldl_cons, ih, mixCell_length]

@[simp] theorem foldr_unmixCell_length (ps : List Nat) : (ps.foldr (unmixCell n key sum) ws).length = ws.length := by
  induction ps with
  | nil => rfl
  | cons p ps ih => rw [List.foldr_cons, unmixCell_length, ih]

@[simp] theorem mixWords_length : (mixWords n key sum ws).length = ws.length := foldl_mixCell_length ..

@[simp] theorem unmixWords_length : (unmixWords n key sum ws).length = ws.length := foldr_unmixCell_length ..

/-- A cell is not its own neighbour, so writing it leaves what it is mixed with (R102). -/
theorem mixAt_set {p : Nat} (hn : 2 ≤ n) (hp : p < n) (w : Word) :
    mixAt n key sum (ws.set p w) p = mixAt n key sum ws p := by
  have hnext : p ≠ (p + 1) % n := by
    rcases Nat.lt_or_ge (p + 1) n with h | h
    · rw [Nat.mod_eq_of_lt h]
      omega
    · rw [show p + 1 = n by omega, Nat.mod_self]
      omega
  have hprev : p ≠ (p + n - 1) % n := by
    rcases Nat.eq_zero_or_pos p with rfl | h
    · rw [Nat.mod_eq_of_lt (by omega)]
      omega
    · rw [show p + n - 1 = p - 1 + n by omega, Nat.add_mod_right, Nat.mod_eq_of_lt (by omega)]
      omega
  simp only [mixAt, List.getD_eq_getElem?_getD, List.getElem?_set_ne hnext, List.getElem?_set_ne hprev]

theorem set_getD_self {p : Nat} (hp : p < ws.length) : ws.set p (ws.getD p 0) = ws := by
  rw [List.getD_eq_getElem _ _ hp, List.set_getElem_self]

theorem getD_set_self {p : Nat} (hp : p < ws.length) (w : Word) : (ws.set p w).getD p 0 = w := by
  simp [hp]

theorem unmixCell_mixCell {p : Nat} (hn : 2 ≤ n) (hp : p < n) (hw : n ≤ ws.length) :
    unmixCell n key sum p (mixCell n key sum ws p) = ws := by
  have hlen : p < ws.length := by omega
  rw [unmixCell, mixCell, mixAt_set key sum ws hn hp, getD_set_self ws hlen, List.set_set, sub32, add32,
    BitVec.add_sub_cancel, set_getD_self ws hlen]

/-- The cells of a round, taken back in the other order, are as they were. -/
theorem foldr_unmixCell_foldl_mixCell {m : Nat} (hn : 2 ≤ n) (hm : m ≤ n) (hw : n ≤ ws.length) :
    (List.range m).foldr (unmixCell n key sum) ((List.range m).foldl (mixCell n key sum) ws) = ws := by
  induction m with
  | zero => rfl
  | succ m ih =>
    rw [List.range_succ, List.foldl_append, List.foldr_append]
    simp only [List.foldl_cons, List.foldl_nil, List.foldr_cons, List.foldr_nil]
    rw [unmixCell_mixCell key sum _ hn (by omega) (by rw [foldl_mixCell_length]; exact hw), ih (by omega)]

theorem unmixWords_mixWords (hn : 2 ≤ n) (hw : n ≤ ws.length) :
    unmixWords n key sum (mixWords n key sum ws) = ws :=
  foldr_unmixCell_foldl_mixCell key sum ws hn le_rfl hw

/-- An update of `Encode` that carries the left neighbour is an update of the cell, and carries the cell (R102). -/
theorem encodeStep_eq_mixCell {p : Nat} (hp : p < ws.length) :
    encodeStep key sum p (ws.getD ((p + 1) % n) 0) (ws, ws.getD ((p + n - 1) % n) 0) =
      (mixCell n key sum ws p, (mixCell n key sum ws p).getD p 0) := by
  rw [mixCell, getD_set_self ws hp]
  rfl

/-- An update of `Decode` that carries the right neighbour is an update of the cell, and carries the cell (R103). -/
theorem decodeStep_eq_unmixCell {p : Nat} (hp : p < ws.length) :
    decodeStep key sum p (ws.getD ((p + n - 1) % n) 0) (ws, ws.getD ((p + 1) % n) 0) =
      (unmixCell n key sum p ws, (unmixCell n key sum p ws).getD p 0) := by
  rw [unmixCell, getD_set_self ws hp]
  rfl

/-- The first `m` cells of a round of `Encode`, below the last. -/
theorem encode_cells {m : Nat} (hn : 2 ≤ n) (hm : m ≤ n - 1) (hw : n ≤ ws.length) :
    (List.range m).foldl (fun t p => encodeStep key sum p (t.1.getD (p + 1) 0) t) (ws, ws.getD (n - 1) 0) =
      ((List.range m).foldl (mixCell n key sum) ws,
        ((List.range m).foldl (mixCell n key sum) ws).getD ((m + n - 1) % n) 0) := by
  induction m with
  | zero =>
    rw [Nat.zero_add, Nat.mod_eq_of_lt (by omega)]
    rfl
  | succ m ih =>
    have hnext : (m + 1) % n = m + 1 := Nat.mod_eq_of_lt (by omega)
    have hself : (m + 1 + n - 1) % n = m := by
      rw [show m + 1 + n - 1 = m + n by omega, Nat.add_mod_right, Nat.mod_eq_of_lt (by omega)]
    rw [List.range_succ, List.foldl_append, List.foldl_append, ih (by omega), hself]
    have hstep := encodeStep_eq_mixCell (n := n) key sum ((List.range m).foldl (mixCell n key sum) ws) (p := m)
      (by rw [foldl_mixCell_length]; omega)
    rw [hnext] at hstep
    exact hstep

/-- A round of `Encode` is the cells in turn, and carries the last word. -/
theorem encodeRound_eq (hn : 2 ≤ n) (hw : n ≤ ws.length) :
    encodeRound n key sum (ws, ws.getD (n - 1) 0) =
      (mixWords n key sum ws, (mixWords n key sum ws).getD (n - 1) 0) := by
  obtain ⟨m, rfl⟩ : ∃ m, n = m + 1 := ⟨n - 1, by omega⟩
  have hstep := encodeStep_eq_mixCell (n := m + 1) key sum ((List.range m).foldl (mixCell (m + 1) key sum) ws) (p := m)
    (by rw [foldl_mixCell_length]; omega)
  have hcells := encode_cells (m := m) key sum ws hn (by omega) hw
  rw [Nat.add_sub_cancel] at hcells
  rw [Nat.mod_self] at hstep
  simp only [encodeRound, Nat.add_sub_cancel]
  rw [hcells, hstep, mixWords, List.range_succ, List.foldl_append]
  rfl

/-- The cells `m` to 1 of a round of `Decode`. -/
theorem decode_cells {m : Nat} (hm : m ≤ n - 1) (hw : n ≤ ws.length) :
    (List.range m).foldr (fun i t => decodeStep key sum (i + 1) (t.1.getD i 0) t) (ws, ws.getD ((m + 1) % n) 0) =
      ((List.range m).foldr (fun i => unmixCell n key sum (i + 1)) ws,
        ((List.range m).foldr (fun i => unmixCell n key sum (i + 1)) ws).getD (1 % n) 0) := by
  induction m generalizing ws with
  | zero => rfl
  | succ m ih =>
    have hprev : (m + 1 + n - 1) % n = m := by
      rw [show m + 1 + n - 1 = m + n by omega, Nat.add_mod_right, Nat.mod_eq_of_lt (by omega)]
    have hself : (m + 1) % n = m + 1 := Nat.mod_eq_of_lt (by omega)
    have hstep := decodeStep_eq_unmixCell (n := n) key sum ws (p := m + 1) (by omega)
    rw [hprev] at hstep
    have hrest := ih (unmixCell n key sum (m + 1) ws) (by omega) (by rw [unmixCell_length]; exact hw)
    rw [hself] at hrest
    rw [List.range_succ, List.foldr_append, List.foldr_append]
    simp only [List.foldr_cons, List.foldr_nil]
    rw [hstep]
    exact hrest

/-- A round of `Decode` is the cells in turn from the last, and carries the first word. -/
theorem decodeRound_eq (hn : 2 ≤ n) (hw : n ≤ ws.length) :
    decodeRound n key sum (ws, ws.getD 0 0) = (unmixWords n key sum ws, (unmixWords n key sum ws).getD 0 0) := by
  obtain ⟨m, rfl⟩ : ∃ m, n = m + 1 := ⟨n - 1, by omega⟩
  have hcells := decode_cells (n := m + 1) key sum ws (m := m) (by omega) hw
  rw [Nat.mod_self] at hcells
  have hwords : unmixWords (m + 1) key sum ws =
      unmixCell (m + 1) key sum 0 ((List.range m).foldr (fun i => unmixCell (m + 1) key sum (i + 1)) ws) := by
    rw [unmixWords, List.range_succ_eq_map, List.foldr_cons, List.foldr_map]
  have hlen : 0 < ((List.range m).foldr (fun i => unmixCell (m + 1) key sum (i + 1)) ws).length := by
    have := unmixWords_length (n := m + 1) key sum ws
    rw [hwords, unmixCell_length] at this
    omega
  have hstep := decodeStep_eq_unmixCell (n := m + 1) key sum _ hlen
  rw [Nat.zero_add, Nat.zero_add, Nat.add_sub_cancel, Nat.mod_eq_of_lt (Nat.lt_succ_self m)] at hstep
  simp only [decodeRound, Nat.add_sub_cancel]
  rw [List.foldl_reverse, hcells, hstep, hwords]

end

/-- The words after the rounds 1 to `q` of `Encode`. -/
def encodeRounds (n : Nat) (key : Key) : Nat → List Word → List Word
  | 0, ws => ws
  | q + 1, ws => mixWords n key (roundSum (q + 1)) (encodeRounds n key q ws)

section
variable {n : Nat} (key : Key) (ws : List Word)

@[simp] theorem encodeRounds_length (q : Nat) : (encodeRounds n key q ws).length = ws.length := by
  induction q with
  | zero => rfl
  | succ q ih => rw [encodeRounds, mixWords_length, ih]

/-- `Encode` is the rounds 1 to `q` on the words alone. -/
theorem encode_eq_encodeRounds (hn : 2 ≤ n) (hw : n ≤ ws.length) :
    encode ws n key = encodeRounds n key (rounds n) ws := by
  have hrounds (q : Nat) : (List.range q).foldl (fun st r => encodeRound n key (roundSum (r + 1)) st)
      (ws, ws.getD (n - 1) 0) = (encodeRounds n key q ws, (encodeRounds n key q ws).getD (n - 1) 0) := by
    induction q with
    | zero => rfl
    | succ q ih =>
      rw [List.range_succ, List.foldl_append, ih]
      exact encodeRound_eq key _ _ hn (by rw [encodeRounds_length]; exact hw)
  rw [encode_eq_foldl, hrounds]

/-- The loop of `Decode` takes the rounds `q` to 1 back. -/
theorem decodeLoop_encodeRounds (hn : 2 ≤ n) (hw : n ≤ ws.length) {q : Nat} (hq : q ≤ 32) :
    (decodeLoop n key q (roundSum q) (encodeRounds n key q ws, (encodeRounds n key q ws).getD 0 0)).1 = ws := by
  induction q with
  | zero => rfl
  | succ q ih =>
    have hne : roundSum (q + 1) ≠ 0 := roundSum_ne_zero (by omega) hq
    have hlen : n ≤ (encodeRounds n key q ws).length := by rw [encodeRounds_length]; exact hw
    rw [decodeLoop, if_neg hne, roundSum_pred, decodeRound_eq key _ _ hn (by rw [encodeRounds_length]; exact hw),
      encodeRounds, unmixWords_mixWords key _ _ hn hlen]
    exact ih (by omega)

/-- `Decode(Encode(W, n, key), n, key) = W` (R104 (b)), also of an array longer than `n`. -/
theorem decode_encode (hn : 2 ≤ n) (hw : n ≤ ws.length) : decode (encode ws n key) n key = ws := by
  rw [encode_eq_encodeRounds key ws hn hw]
  exact decodeLoop_encodeRounds key ws hn hw (rounds_le hn)

end

end Sys2Proof.Cipher
end

section
/-! What a frame operation leaves in FRM is the wire frame of its kind (O43; spec 42_command_frames.md R150 to R156, R74). -/

namespace Sys2Proof

/-- The words of a byte sequence are the words it was made of (R43 to R45). -/
theorem wordAt_bytesOfWords (o : ByteOrder) (ws : List Word) {i : Nat} (h : i < ws.length) :
    wordAt o (bytesOfWords o ws) i = ws.getD i 0 := by
  induction ws generalizing i with
  | nil => cases h
  | cons w ws ih =>
    have hb : bytesOfWords o (w :: ws) = bytesOfWord o w ++ bytesOfWords o ws := rfl
    rw [hb]
    cases i with
    | zero =>
      have hget (k : Nat) (hk : k < 4) : (bytesOfWord o w ++ bytesOfWords o ws).getD k 0 = (bytesOfWord o w).getD k 0 :=
        List.getD_append _ _ _ _ (by rw [bytesOfWord_length]; exact hk)
      simp only [wordAt, Nat.mul_zero, Nat.zero_add]
      rw [hget 0 (by decide), hget 1 (by decide), hget 2 (by decide), hget 3 (by decide), wordOfBytes_bytesOfWord,
        List.getD_cons_zero]
    | succ i =>
      have hget (k : Nat) : (bytesOfWord o w ++ bytesOfWords o ws).getD (4 * (i + 1) + k) 0 =
          (bytesOfWords o ws).getD (4 * i + k) 0 := by
        rw [List.getD_append_right _ _ _ _ (by rw [bytesOfWord_length]; omega), bytesOfWord_length]
        congr 1
        omega
      have hget0 : (bytesOfWord o w ++ bytesOfWords o ws).getD (4 * (i + 1)) 0 = (bytesOfWords o ws).getD (4 * i) 0 :=
        hget 0
      rw [List.getD_cons_succ, ← ih (Nat.lt_of_succ_lt_succ h)]
      simp only [wordAt, hget, hget0]

namespace Machine

/-- A move payload shows the marker under its own key (R156 (b)). -/
theorem hasMarker_movePayload (c : Config) (key : Key) (x y : Word) :
    hasMarker c key (movePayload c.byteOrder key x y) = true := by
  have hlen : (Cipher.encode [Config.marker, x, y] 3 key).length = 3 := Cipher.encode_length ..
  have hwords : [wordAt c.byteOrder (movePayload c.byteOrder key x y) 0,
      wordAt c.byteOrder (movePayload c.byteOrder key x y) 1,
      wordAt c.byteOrder (movePayload c.byteOrder key x y) 2] = Cipher.encode [Config.marker, x, y] 3 key := by
    rw [movePayload, wordAt_bytesOfWords _ _ (by omega), wordAt_bytesOfWords _ _ (by omega),
      wordAt_bytesOfWords _ _ (by omega)]
    obtain ⟨a, b, d, habd⟩ := List.length_eq_three.1 hlen
    rw [habd]
    rfl
  rw [hasMarker]
  simp only [hwords, Cipher.decode_encode key [Config.marker, x, y] (n := 3) (by decide) le_rfl]
  exact decide_eq_true rfl

theorem moveFrame_of_penUp {c : Config} {p : List Byte} (h : hasMarker c c.keyPenUp p = true) :
    Sys2Proof.moveFrame c p = .wireMovePenUp p := by
  simp [Sys2Proof.moveFrame, h]

theorem moveFrame_of_penDown {c : Config} {p : List Byte} (hup : hasMarker c c.keyPenUp p = false)
    (hdown : hasMarker c c.keyPenDown p = true) : Sys2Proof.moveFrame c p = .wireMovePenDown p := by
  simp [Sys2Proof.moveFrame, hup, hdown]

variable {s t : State}

theorem State.moveFrame_frameBytes (s : State) (key : Key) :
    (s.moveFrame key).frameBytes = 0x0D#8 :: 0x40#8 :: movePayload s.cfg.byteOrder key s.arg0 s.arg1 :=
  State.putFrame_frameBytes s _ _ ((movePayload_length ..).trans_le (by decide))

/-- The frame in the buffer is as long as `FLEN` says (R22, R150). -/
theorem exec_frameOp_frameBytes_length {i : Instr} (hi : i.isFrameOp = true) (h : exec i s = .next t) :
    t.frameBytes.length = t.flen.toNat := by
  obtain ⟨l, o, p, hp, rfl⟩ := exec_frameOp_cases hi h
  have hle : p.length ≤ 14 := hp.trans (by decide)
  change (s.putFrame l o p).frameBytes.length = (s.putFrame l o p).flen.toNat
  rw [State.putFrame_frameBytes s l o hle, State.putFrame_flen_toNat s l o hle]

theorem State.succeed_frameBytes (s : State) : s.succeed.frameBytes = s.frameBytes := rfl

/-- What a move frame decodes to is settled by the keys its payload shows the marker under (R74, assumption 9). -/
theorem State.moveFrame_decodeWire (s : State) (key : Key) :
    decodeWire s.cfg (s.moveFrame key).frameBytes =
      .ok (Sys2Proof.moveFrame s.cfg (movePayload s.cfg.byteOrder key s.arg0 s.arg1)) := by
  rw [State.moveFrame_frameBytes, decodeWire_move _ (movePayload_length ..)]

theorem State.moveFrame_drop (s : State) (key : Key) :
    (s.moveFrame key).frameBytes.drop 2 = movePayload s.cfg.byteOrder key s.arg0 s.arg1 := by
  rw [State.moveFrame_frameBytes, List.drop_succ_cons, List.drop_succ_cons, List.drop_zero]

theorem exec_frmvu_decodeWire (h : exec .frmvu s = .next t) :
    decodeWire t.cfg t.frameBytes = .ok (.wireMovePenUp (t.frameBytes.drop 2)) := by
  obtain rfl : (s.moveFrame s.cfg.keyPenUp).succeed = t := Host.Outcome.next.inj h
  rw [State.succeed_cfg, State.moveFrame_cfg, State.succeed_frameBytes, State.moveFrame_decodeWire, State.moveFrame_drop,
    moveFrame_of_penUp (hasMarker_movePayload ..)]

theorem exec_frmvd_decodeWire (h : exec .frmvd s = .next t)
    (hup : hasMarker t.cfg t.cfg.keyPenUp (t.frameBytes.drop 2) = false) :
    decodeWire t.cfg t.frameBytes = .ok (.wireMovePenDown (t.frameBytes.drop 2)) := by
  obtain rfl : (s.moveFrame s.cfg.keyPenDown).succeed = t := Host.Outcome.next.inj h
  rw [State.succeed_cfg, State.moveFrame_cfg, State.succeed_frameBytes, State.moveFrame_drop] at hup ⊢
  rw [State.moveFrame_decodeWire, moveFrame_of_penDown hup (hasMarker_movePayload ..)]

/-- Settles O43: the three fixed frames are the decoder's patterns, and a move frame's payload decrypts to the marker
(`hasMarker_movePayload`). -/
theorem builtFramesAreWireFrames : Obligations.BuiltFramesAreWireFrames := by
  refine fun i s t hi h => ⟨exec_frameOp_frameBytes_length hi h, ?_, ?_, ?_, ?_, ?_⟩
  · rintro rfl
    cases h
    exact decodeWire_queryMatLoaded s.cfg
  · rintro rfl
    cases h
    exact decodeWire_startCut s.cfg
  · rintro rfl
    cases h
    exact decodeWire_stopCut s.cfg
  · rintro rfl
    exact exec_frmvu_decodeWire h
  · rintro rfl hup
    exact exec_frmvd_decodeWire h hup

end Machine
end Sys2Proof
end

section
/-! Words and their bytes, and VEC and BUF as one storage (O50; spec 20_memory.md R43, R44). -/

namespace Sys2Proof

/-- A byte put below a word's bits adds its value (R9). -/
theorem toNat_append_byte {m : Nat} (a : BitVec m) (b : Byte) : (a ++ b).toNat = 256 * a.toNat + b.toNat := by
  rw [BitVec.toNat_append, ← Nat.shiftLeft_add_eq_or_of_lt b.isLt, Nat.shiftLeft_eq, Nat.mul_comm]

/-- A word under the order little is the sum of its bytes by weight (R9, R43). -/
theorem wordOfBytes_little_toNat (b0 b1 b2 b3 : Byte) :
    (wordOfBytes .little b0 b1 b2 b3).toNat =
      b0.toNat + 256 * b1.toNat + 65536 * b2.toNat + 16777216 * b3.toNat := by
  simp only [wordOfBytes, toNat_append_byte]
  omega

/-- The two orders differ by turning the bytes around (R44). -/
theorem wordOfBytes_big (b0 b1 b2 b3 : Byte) : wordOfBytes .big b0 b1 b2 b3 = wordOfBytes .little b3 b2 b1 b0 := rfl

theorem bytesOfWord_big (w : Word) : bytesOfWord .big w = (bytesOfWord .little w).reverse := rfl

/-- A word put together from four bytes has these bytes (R9, R43, R44). -/
theorem bytesOfWord_wordOfBytes (o : ByteOrder) (b0 b1 b2 b3 : Byte) :
    bytesOfWord o (wordOfBytes o b0 b1 b2 b3) = [b0, b1, b2, b3] := by
  have little (c0 c1 c2 c3 : Byte) : bytesOfWord .little (wordOfBytes .little c0 c1 c2 c3) = [c0, c1, c2, c3] := by
    simp only [bytesOfWord, List.cons.injEq, and_true, ← BitVec.toNat_inj, BitVec.extractLsb'_toNat,
      wordOfBytes_little_toNat, Nat.shiftRight_eq_div_pow]
    omega
  cases o with
  | little => exact little b0 b1 b2 b3
  | big =>
    rw [wordOfBytes_big, bytesOfWord_big, little]
    rfl

/-- Byte `k` of a word under the order little is its bits `8k+7` to `8k` (R43). -/
theorem bytesOfWord_little_getD (w : Word) {k : Nat} (h : k < 4) :
    (bytesOfWord .little w).getD k 0 = w.extractLsb' (8 * k) 8 := by
  match k, h with
  | 0, _ | 1, _ | 2, _ | 3, _ => rfl

/-- Byte `k` of a word under the order big is its bits `31-8k` to `24-8k` (R44). -/
theorem bytesOfWord_big_getD (w : Word) {k : Nat} (h : k < 4) :
    (bytesOfWord .big w).getD k 0 = w.extractLsb' (24 - 8 * k) 8 := by
  match k, h with
  | 0, _ | 1, _ | 2, _ | 3, _ => rfl

namespace Machine

/-- The four bytes of BUF under `VEC[i]` are that word's bytes, in the order `BYTE_ORDER` says (R43, R44). -/
theorem State.bufByte_eq_vecWord (s : State) (i : Nat) {k : Nat} (h : k < 4) :
    s.bufByte (4 * i + k) = (bytesOfWord s.cfg.byteOrder (s.vecWord i)).getD k 0 := by
  rw [State.vecWord, bytesOfWord_wordOfBytes]
  match k, h with
  | 0, _ | 1, _ | 2, _ | 3, _ => rfl

/-- Settles O50: the bytes by `State.bufByte_eq_vecWord`, the sum by `wordOfBytes_little_toNat`. -/
theorem vecAndBufAreOneStorage : Obligations.VecAndBufAreOneStorage := by
  refine fun s i k hk => ⟨fun ho => ⟨?_, ?_⟩, fun ho => ?_⟩
  · rw [State.bufByte_eq_vecWord s i hk, ho, bytesOfWord_little_getD _ hk]
  · rw [State.vecWord, ho, wordOfBytes_little_toNat]
  · rw [State.bufByte_eq_vecWord s i hk, ho, bytesOfWord_big_getD _ hk]

end Machine
end Sys2Proof
end

section
/-! Memory accesses of the port: which are well formed, what these do, and that every other is an access fault (O51 to
O54; spec 20_memory.md R50 to R52). -/

namespace Sys2Proof.Machine

variable {s : State} {space : Space} {addr n : Nat} {v : Word}

/-- The well-formed accesses: 1 byte inside the space, or 4 at a multiple of 4 wholly inside (R50, R51). -/
theorem State.accessOk_iff : s.accessOk space addr n = true ↔
    (n = 1 ∧ addr < s.spaceBytes space) ∨ (n = 4 ∧ addr % 4 = 0 ∧ addr + 4 ≤ s.spaceBytes space) := by
  simp only [State.accessOk, Bool.and_eq_true, Bool.or_eq_true, decide_eq_true_eq, and_assoc]

/-- The accesses R52 lists are the others. -/
theorem State.accessOk_eq_false
    (h : (n ≠ 1 ∧ n ≠ 4) ∨ (n = 4 ∧ addr % 4 ≠ 0) ∨ s.spaceBytes space < addr + n) :
    s.accessOk space addr n = false := by
  rw [← Bool.not_eq_true, State.accessOk_iff]
  omega

/-- A write is performed on BUF only, where the access is well formed and a byte's value is a byte (R51). -/
theorem State.writeOk_buf_iff : s.writeOk .buf addr n v = true ↔
    s.accessOk .buf addr n = true ∧ (n = 1 → v.toNat ≤ 255) := by
  simp only [State.writeOk, Bool.and_eq_true, Bool.or_eq_true, decide_eq_true_eq, ne_eq, imp_iff_not_or]

theorem State.writeOk_frm : s.writeOk .frm addr n v = false := rfl

theorem State.writeOk_eq_false (h : s.accessOk space addr n = false) : s.writeOk space addr n v = false := by
  cases space with
  | buf =>
    rw [← Bool.not_eq_true, State.writeOk_buf_iff, h]
    exact fun ⟨hok, _⟩ => Bool.noConfusion hok
  | frm => rfl

/-- A faulting read reports `AccessFault` and answers some word (R49, R52). -/
theorem State.faultingRead_eq (s : State) : s.faultingRead =
    { s with code := .accessFault, fault := true, reply := .data (Config.faultReadData s.faultReads),
             faultReads := s.faultReads + 1 } := by
  simp only [State.faultingRead, State.fail, ResultCode.fatal, Bool.or_true]

/-- A faulting write reports `AccessFault` and is discarded (R49, R52). -/
theorem State.faultingWrite_eq (s : State) : s.faultingWrite =
    { s with code := .accessFault, fault := true, reply := .none } := by
  simp only [State.faultingWrite, State.fail, ResultCode.fatal, Bool.or_true]

theorem hostAction_memRead (h : s.accessOk space addr n = true) :
    hostAction (.memRead space addr n) s = .next { s with reply := .data (s.memValue space addr n) } := by
  simp only [hostAction, memRead, h]
  rfl

theorem hostAction_memRead_fault (h : s.accessOk space addr n = false) :
    ∃ w, hostAction (.memRead space addr n) s = .next
      { s with code := .accessFault, fault := true, reply := .data w, faultReads := s.faultReads + 1 } := by
  simp only [hostAction, memRead, h]
  exact ⟨_, congrArg _ s.faultingRead_eq⟩

theorem hostAction_memWrite_fault (h : s.writeOk space addr n v = false) :
    hostAction (.memWrite space addr n v) s = .next { s with code := .accessFault, fault := true, reply := .none } := by
  simp only [hostAction, memWrite, h]
  exact congrArg _ s.faultingWrite_eq

/-- A well-formed 1-byte write stores the byte (R51). -/
theorem hostAction_memWrite_byte (ha : addr < s.cfg.bufBytes) (hv : v.toNat ≤ 255) :
    hostAction (.memWrite .buf addr 1 v) s = .next (s.setBufByte addr (v.setWidth 8)).noData := by
  have hok : s.writeOk .buf addr 1 v = true :=
    State.writeOk_buf_iff.2 ⟨State.accessOk_iff.2 (.inl ⟨rfl, ha⟩), fun _ => hv⟩
  simp only [hostAction, memWrite, hok]
  rfl

/-- A well-formed 4-byte write stores the word (R51). -/
theorem hostAction_memWrite_word (hmod : addr % 4 = 0) (ha : addr + 4 ≤ s.cfg.bufBytes) :
    hostAction (.memWrite .buf addr 4 v) s = .next (s.setVecWord (addr / 4) v).noData := by
  have hok : s.writeOk .buf addr 4 v = true :=
    State.writeOk_buf_iff.2 ⟨State.accessOk_iff.2 (.inr ⟨rfl, hmod, ha⟩), nofun⟩
  simp only [hostAction, memWrite, hok]
  rfl

/-- Settles O52: a byte by the laws of `Memory.write`, a word by those of `State.setVecWord`. -/
theorem memoryWrites : Obligations.MemoryWrites := by
  refine fun s addr v hwf => ⟨fun ha hv => ?_, fun hmod ha => ?_⟩
  · refine ⟨_, hostAction_memWrite_byte ha hv, ?_, fun a hne => ?_, rfl⟩
    · exact Memory.read_write_same _ hwf _ _
    · exact Memory.read_write_other _ hwf _ _ _ hne
  · refine ⟨_, hostAction_memWrite_word hmod ha, ?_, fun a hout => ?_, ?_⟩
    · exact (State.setVecWord_vecWord s _ _ v hwf).trans (if_pos rfl)
    · exact (State.setVecWord_bufByte s _ v hwf a).trans (if_neg (by omega))
    · rw [State.setVecWord_eq]
      rfl

/-- Settles O53, by `State.accessOk_eq_false` for both spaces; no write of FRM is performed at all. -/
theorem memoryAccessFaults : Obligations.MemoryAccessFaults := by
  intro s space addr n v top
  have htop : top = s.spaceBytes space := by cases space <;> rfl
  rw [htop]
  refine ⟨fun h => ?_, hostAction_memWrite_fault State.writeOk_frm⟩
  have hno := State.accessOk_eq_false h
  exact ⟨hostAction_memRead_fault hno, hostAction_memWrite_fault (State.writeOk_eq_false hno)⟩

/-- Settles O51: each of the four accesses is well formed, and `State.memValue` is what R50 writes; a word of FRM by
`wordOfBytes_little_toNat`. -/
theorem memoryReads : Obligations.MemoryReads := by
  refine fun s addr => ⟨fun ha => ?_, fun hmod ha => ?_, fun ha => ?_, fun ha => ?_⟩
  · exact hostAction_memRead (State.accessOk_iff.2 (.inl ⟨rfl, ha⟩))
  · exact hostAction_memRead (State.accessOk_iff.2 (.inr ⟨rfl, hmod, ha⟩))
  · exact hostAction_memRead (State.accessOk_iff.2 (.inl ⟨rfl, ha⟩))
  · have hin : addr % 4 = 0 ∧ addr + 4 ≤ 16 := by omega
    exact ⟨_, hostAction_memRead (State.accessOk_iff.2 (.inr ⟨rfl, hin⟩)), wordOfBytes_little_toNat ..⟩

/-- Settles O54: `State.writeOk` asks a byte's value to be a byte. -/
theorem wideByteWriteFaults : Obligations.WideByteWriteFaults := by
  intro s addr v hv
  have hno : s.writeOk .buf addr 1 v = false := by
    rw [← Bool.not_eq_true, State.writeOk_buf_iff]
    omega
  exact hostAction_memWrite_fault hno

end Sys2Proof.Machine
end

section
/-! Register writes, and the register accesses that fault (O48, O49; spec 20_memory.md R48, R49). -/

namespace Sys2Proof.Machine

variable {s t : State} {index width : Nat} {v : Word}

/-- A register R47 does not list has no value to read. -/
theorem State.regValue_eq_none (h : index ∉ readableRegs) : s.regValue index = none := by
  unfold State.regValue
  split
  case h_13 => rfl
  all_goals exact absurd (by decide) h

/-- A register R48 does not list is no storage to write. -/
theorem State.setReg_eq_none (h : index ∉ writableRegs) : s.setReg index v = none := by
  unfold State.setReg
  split
  case h_7 => rfl
  all_goals exact absurd (by decide) h

/-- A write of a storage register stores the word (R48); `CMD` is none. -/
theorem hostAction_regWrite (h : s.setReg index v = some t) :
    hostAction (.regWrite index 32 v) s = .next { t with reply := .none } := by
  have h0 : index ≠ 0 := by
    rintro rfl
    cases h
  simp only [hostAction, regWrite, h, if_neg h0]
  rfl

/-- A write to `CMD` performs the operation its word decodes to (R48). -/
theorem hostAction_regWrite_cmd {i : Instr} (h : decode v = .ok i) :
    hostAction (.regWrite 0 32 v) s = exec i { s with reply := .none } := by
  change issue v s.noData = _
  rw [issue, h]
  rfl

/-- Settles O48: the six storage registers by `hostAction_regWrite`, `CMD` by `hostAction_regWrite_cmd`. -/
theorem registerWrites : Obligations.RegisterWrites := by
  refine fun s v => ⟨?_, ?_, ?_, ?_, ?_, ?_, fun i => hostAction_regWrite_cmd⟩
  all_goals exact Eq.trans (hostAction_regWrite rfl) rfl

theorem regRead_fault (h : width ≠ 32 ∨ index ∉ readableRegs) : regRead index width s = s.faultingRead := by
  unfold regRead
  rcases h with h | h
  · exact if_pos h
  · rw [State.regValue_eq_none h, ite_self]

theorem regWrite_fault (h : width ≠ 32 ∨ index ∉ writableRegs) :
    regWrite index width v s = .next s.faultingWrite := by
  unfold regWrite
  rcases h with h | h
  · exact if_pos h
  · have h0 : index ≠ 0 := by
      rintro rfl
      exact h (by decide)
    rw [State.setReg_eq_none h, if_neg h0, ite_self]

/-- Settles O49, by `regRead_fault` and `regWrite_fault`. -/
theorem registerAccessFaults : Obligations.RegisterAccessFaults := by
  refine fun s index width v => ⟨fun h => ⟨Config.faultReadData s.faultReads, ?_⟩, fun h => ?_⟩
  · exact congrArg _ ((regRead_fault h).trans s.faultingRead_eq)
  · exact (regWrite_fault h).trans (congrArg _ s.faultingWrite_eq)

end Sys2Proof.Machine
end

section
/-! The move frames as FRM holds them (O41; spec 42_command_frames.md R150, R154, R155). -/

namespace Sys2Proof.Machine

variable (s : State) (key : Key)

/-- A payload of twelve bytes fills FRM but for the last two (R150). -/
theorem frameBuffer_toList_of_twelve (l o : Byte) {p : List Byte} (h : p.length = 12) :
    (frameBuffer l o p).toList = [l, o] ++ p ++ [0, 0] := by
  rw [frameBuffer_toList l o (by omega), h]
  rfl

/-- The 16 bytes `MoveFrame(key)` leaves: two of head, twelve of payload, two zeros (R154). -/
theorem State.moveFrame_frm_toList : (s.moveFrame key).frm.toList =
    [0x0D, 0x40] ++ bytesOfWords s.cfg.byteOrder (Cipher.encode [12345, s.arg0, s.arg1] 3 key) ++ [0, 0] := by
  rw [State.moveFrame_frm, frameBuffer_toList_of_twelve _ _ (movePayload_length ..)]
  rfl

theorem State.moveFrame_flen_eq : (s.moveFrame key).flen = 14 := by
  rw [State.moveFrame_flen, movePayload_length]
  rfl

/-- `MoveFrame(key)` and the `succeed` that ends it, in one equation (R154). -/
theorem State.succeed_moveFrame_eq : (s.moveFrame key).succeed =
    { s with frm := (s.moveFrame key).frm, flen := 14, code := .ok } := by
  rw [← State.moveFrame_flen_eq s key]
  rfl

/-- Settles O41: both operations are `MoveFrame`, each under its own key. -/
theorem moveFramesAreBuilt : Obligations.MoveFramesAreBuilt := fun s =>
  ⟨⟨(s.moveFrame s.cfg.keyPenUp).succeed, rfl, s.moveFrame_frm_toList _, s.moveFrame_flen_eq _,
      s.succeed_moveFrame_eq _⟩,
    ⟨(s.moveFrame s.cfg.keyPenDown).succeed, rfl, s.moveFrame_frm_toList _, s.moveFrame_flen_eq _,
      s.succeed_moveFrame_eq _⟩⟩

end Sys2Proof.Machine
end

section
/-! Command words and their fields, and the decoder against the encoder and the table (O1, O2, O4, O5; spec
30_encoding.md R70 to R73, R75). -/

namespace Sys2Proof

variable {w : Word} {op : BitVec 8} {imm : BitVec 16} {i : Instr}

theorem opField_toNat (w : Word) : (opField w).toNat = w.toNat % 256 := by
  rw [opField, BitVec.extractLsb'_toNat, Nat.shiftRight_zero]

theorem immField_toNat (w : Word) : (immField w).toNat = w.toNat / 256 % 65536 := by
  rw [immField, BitVec.extractLsb'_toNat, Nat.shiftRight_eq_div_pow]

theorem zField_toNat (w : Word) : (zField w).toNat = w.toNat / 16777216 % 256 := by
  rw [zField, BitVec.extractLsb'_toNat, Nat.shiftRight_eq_div_pow]

theorem cmdWord_toNat (op : BitVec 8) (imm : BitVec 16) : (cmdWord op imm).toNat = 256 * imm.toNat + op.toNat := by
  rw [cmdWord, toNat_append_byte, BitVec.toNat_append]
  simp

/-- The three fields are the whole word, so a word is known by them (R70). -/
theorem eq_cmdWord_iff : w = cmdWord op imm ↔ zField w = 0 ∧ immField w = imm ∧ opField w = op := by
  have hw := w.isLt
  have hop := op.isLt
  have himm := imm.isLt
  simp only [← BitVec.toNat_inj, cmdWord_toNat, opField_toNat, immField_toNat, zField_toNat,
    show (0 : BitVec 8).toNat = 0 from rfl]
  omega

@[simp] theorem opField_cmdWord (op : BitVec 8) (imm : BitVec 16) : opField (cmdWord op imm) = op :=
  (eq_cmdWord_iff.1 rfl).2.2

@[simp] theorem immField_cmdWord (op : BitVec 8) (imm : BitVec 16) : immField (cmdWord op imm) = imm :=
  (eq_cmdWord_iff.1 rfl).2.1

/-- The mask of a row with an operand: `Z` and `OP`, not `IMM` (R72). -/
theorem and_operandMask_eq_iff : w &&& 0xFF0000FF#32 = cmdWord op 0 ↔ zField w = 0 ∧ opField w = op := by
  have hz : zField (w &&& 0xFF0000FF#32) = zField w := by
    rw [zField, BitVec.extractLsb'_and]
    exact BitVec.and_allOnes
  have himm : immField (w &&& 0xFF0000FF#32) = 0 := by
    rw [immField, BitVec.extractLsb'_and]
    exact BitVec.and_zero
  have hop : opField (w &&& 0xFF0000FF#32) = opField w := by
    rw [opField, BitVec.extractLsb'_and]
    exact BitVec.and_allOnes
  rw [eq_cmdWord_iff, hz, himm, hop]
  simp only [true_and]

/-- The mask of a row without an operand: the whole word (R72). -/
theorem and_fixedMask_eq_iff :
    w &&& 0xFFFFFFFF#32 = cmdWord op 0 ↔ zField w = 0 ∧ immField w = 0 ∧ opField w = op := by
  have hw : w &&& 0xFFFFFFFF#32 = w := BitVec.and_allOnes
  rw [hw, eq_cmdWord_iff]

/-! ## Immediates and the operands they assemble to (R71) -/

theorem immN_ofInt {n : Int} (hlow : -32768 ≤ n) (hhigh : n ≤ 32767) : immN (BitVec.ofInt 16 n) = n :=
  BitVec.toInt_ofInt_eq_self (by decide) hlow (Int.lt_add_one_of_le hhigh)

theorem immLen_ofNat {len : Nat} (h : len ≤ 65535) : immLen (BitVec.ofNat 16 len) = len :=
  (BitVec.toNat_ofNat ..).trans (Nat.mod_eq_of_lt (Nat.lt_succ_of_le h))

theorem ofInt_immN (imm : BitVec 16) : BitVec.ofInt 16 (immN imm) = imm := BitVec.ofInt_toInt

theorem ofNat_immLen (imm : BitVec 16) : BitVec.ofNat 16 (immLen imm) = imm := by
  rw [immLen, BitVec.ofNat_toNat, BitVec.setWidth_eq]

/-! ## The two halves of the table -/

/-- The operation codes whose row has an operand (R72). -/
def operandCodes : List (BitVec 8) := [0x01, 0x02, 0x03, 0x14]

/-- The operation codes whose row says `IMM` is 0 (R72). -/
def fixedCodes : List (BitVec 8) := [0x10, 0x11, 0x12, 0x13, 0x30, 0x31, 0x32, 0x33, 0x34]

theorem mem_operandCodes (h : decodeWithImm op imm = some i) : op ∈ operandCodes := by
  unfold decodeWithImm at h
  split at h
  case h_5 => cases h
  all_goals simp [operandCodes, ← BitVec.toNat_inj, *]

theorem mem_fixedCodes (h : decodeFixed op = some i) : op ∈ fixedCodes := by
  unfold decodeFixed at h
  split at h
  case h_10 => cases h
  all_goals simp [fixedCodes, ← BitVec.toNat_inj, *]

/-- No operation code stands in both halves. -/
theorem decodeWithImm_eq_none (h : op ∈ fixedCodes) : decodeWithImm op imm = none := by
  simp only [fixedCodes, List.mem_cons, List.not_mem_nil, or_false] at h
  rcases h with rfl | rfl | rfl | rfl | rfl | rfl | rfl | rfl | rfl <;> rfl

/-- What decodes with an operand is a well-formed operation, and its command word has that code and operand. -/
theorem commandWord_of_decodeWithImm (h : decodeWithImm op imm = some i) :
    commandWord i = cmdWord op imm ∧ i.wf = true ∧ i.isCommand = true := by
  have hlen : imm.toNat ≤ 65535 := Nat.le_of_lt_succ imm.isLt
  have hlow : -32768 ≤ imm.toInt := BitVec.le_toInt imm
  have hhigh : imm.toInt < 32768 := BitVec.toInt_lt
  have hmem := mem_operandCodes h
  simp only [operandCodes, List.mem_cons, List.not_mem_nil, or_false] at hmem
  rcases hmem with rfl | rfl | rfl | rfl <;> cases h
  · refine ⟨congrArg (cmdWord _) (ofInt_immN imm), ?_, rfl⟩
    exact Bool.and_eq_true_iff.2 ⟨decide_eq_true hlow, decide_eq_true (Int.le_of_lt_add_one hhigh)⟩
  all_goals exact ⟨congrArg (cmdWord _) (ofNat_immLen imm), decide_eq_true hlen, rfl⟩

theorem commandWord_of_decodeFixed (h : decodeFixed op = some i) :
    commandWord i = cmdWord op 0 ∧ i.wf = true ∧ i.isCommand = true := by
  have hall : ∀ op ∈ fixedCodes, ∀ i ∈ decodeFixed op,
      commandWord i = cmdWord op 0 ∧ i.wf = true ∧ i.isCommand = true := by decide
  exact hall op (mem_fixedCodes h) i h

/-! ## The decoder -/

/-- A command word that decodes has `Z` = 0, and its code takes an operand, or takes none and `IMM` is 0 (R72, R73). -/
theorem decode_eq_ok_iff : decode w = .ok i ↔ zField w = 0 ∧
    (decodeWithImm (opField w) (immField w) = some i ∨ (decodeFixed (opField w) = some i ∧ immField w = 0)) := by
  unfold decode
  by_cases hz : zField w = 0#8
  · cases hop : decodeWithImm (opField w) (immField w) with
    | some j =>
      have hfix : decodeFixed (opField w) ≠ some i := fun hf => by
        rw [decodeWithImm_eq_none (mem_fixedCodes hf)] at hop
        cases hop
      simp [hz, hfix]
    | none =>
      cases hfix : decodeFixed (opField w) with
      | none => simp [hz]
      | some j => by_cases himm : immField w = 0#16 <;> simp [hz, himm]
  · simp [hz]

theorem decode_cmdWord_operand (h : decodeWithImm op imm = some i) : decode (cmdWord op imm) = .ok i := by
  rw [decode_eq_ok_iff, opField_cmdWord, immField_cmdWord]
  exact ⟨Laws.EncodingShape.zField_cmdWord op imm, .inl h⟩

/-- Settles O1: an operand in range is its immediate's value (`immN_ofInt`, `immLen_ofNat`), and the other nine words
are constants. -/
theorem commandEncodeThenDecode : Obligations.CommandEncodeThenDecode := by
  intro i hi hwf
  cases i with
  | xform n =>
    simp only [Instr.wf, Bool.and_eq_true, decide_eq_true_eq] at hwf
    obtain ⟨hlow, hhigh⟩ := hwf
    exact decode_cmdWord_operand (congrArg (some ∘ Instr.xform) (immN_ofInt hlow hhigh))
  | encb len => exact decode_cmdWord_operand (congrArg (some ∘ Instr.encb) (immLen_ofNat (of_decide_eq_true hwf)))
  | decb len => exact decode_cmdWord_operand (congrArg (some ∘ Instr.decb) (immLen_ofNat (of_decide_eq_true hwf)))
  | ctrxor len => exact decode_cmdWord_operand (congrArg (some ∘ Instr.ctrxor) (immLen_ofNat (of_decide_eq_true hwf)))
  | ctrinit0 | ctrinit | ctrregen | ctrnext | frqry | frstart | frstop | frmvu | frmvd => rfl
  | wireQueryMatLoaded | wireStartCut | wireStopCut | wireMovePenUp | wireMovePenDown => cases hi

/-- Settles O2: the decoded operation's word has the three fields of the word decoded, and these are all of it
(`eq_cmdWord_iff`). -/
theorem commandDecodeThenEncode : Obligations.CommandDecodeThenEncode := by
  intro w i h
  obtain ⟨hz, h | ⟨h, himm⟩⟩ := decode_eq_ok_iff.1 h
  · obtain ⟨hword, hgood⟩ := commandWord_of_decodeWithImm h
    exact ⟨hword.trans (eq_cmdWord_iff.2 ⟨hz, rfl, rfl⟩).symm, hgood⟩
  · obtain ⟨hword, hgood⟩ := commandWord_of_decodeFixed h
    exact ⟨hword.trans (eq_cmdWord_iff.2 ⟨hz, himm, rfl⟩).symm, hgood⟩

/-! ## The table R72 -/

/-- What a row of the table says of the decoder's two halves: its pattern is a code alone, and its mask says which half
the code stands in. -/
theorem cmdTable_row {row : CmdRow} (h : row ∈ cmdTable) : row.pattern = cmdWord (opField row.pattern) 0 ∧
    ((row.mask = 0xFF0000FF#32 ∧ ∀ imm, decodeWithImm (opField row.pattern) imm = some (row.make imm)) ∨
      (row.mask = 0xFFFFFFFF#32 ∧ ∀ imm, decodeFixed (opField row.pattern) = some (row.make imm))) := by
  simp only [cmdTable, List.mem_cons, List.not_mem_nil, or_false] at h
  rcases h with rfl | rfl | rfl | rfl | rfl | rfl | rfl | rfl | rfl | rfl | rfl | rfl | rfl
  iterate 3 exact ⟨rfl, .inl ⟨rfl, fun _ => rfl⟩⟩
  iterate 4 exact ⟨rfl, .inr ⟨rfl, fun _ => rfl⟩⟩
  · exact ⟨rfl, .inl ⟨rfl, fun _ => rfl⟩⟩
  iterate 5 exact ⟨rfl, .inr ⟨rfl, fun _ => rfl⟩⟩

/-- Every operation code of the decoder has its row. -/
theorem exists_operandRow (h : op ∈ operandCodes) :
    ∃ row ∈ cmdTable, row.mask = 0xFF0000FF#32 ∧ row.pattern = cmdWord op 0 := by
  revert op
  decide

theorem exists_fixedRow (h : op ∈ fixedCodes) :
    ∃ row ∈ cmdTable, row.mask = 0xFFFFFFFF#32 ∧ row.pattern = cmdWord op 0 := by
  revert op
  decide

/-- A word that decodes matches a row. -/
theorem exists_row_of_decode (h : decode w = .ok i) : ∃ row ∈ cmdTable, w &&& row.mask = row.pattern := by
  obtain ⟨hz, h | ⟨h, himm⟩⟩ := decode_eq_ok_iff.1 h
  · obtain ⟨row, hrow, hmask, hpattern⟩ := exists_operandRow (mem_operandCodes h)
    exact ⟨row, hrow, by rw [hmask, hpattern, and_operandMask_eq_iff]; exact ⟨hz, rfl⟩⟩
  · obtain ⟨row, hrow, hmask, hpattern⟩ := exists_fixedRow (mem_fixedCodes h)
    exact ⟨row, hrow, by rw [hmask, hpattern, and_fixedMask_eq_iff]; exact ⟨hz, himm, rfl⟩⟩

/-- Settles O4: a row's mask picks the fields its half of the decoder reads, and every code has its row. -/
theorem decodeFollowsTheTable : Obligations.DecodeFollowsTheTable := by
  refine fun w => ⟨fun row hrow hmatch => ?_, fun hnone => ?_⟩
  · obtain ⟨hpattern, ⟨hmask, hmake⟩ | ⟨hmask, hmake⟩⟩ := cmdTable_row hrow
    · rw [hmask, hpattern, and_operandMask_eq_iff] at hmatch
      obtain ⟨hz, hop⟩ := hmatch
      exact decode_eq_ok_iff.2 ⟨hz, .inl (hop ▸ hmake _)⟩
    · rw [hmask, hpattern, and_fixedMask_eq_iff] at hmatch
      obtain ⟨hz, himm, hop⟩ := hmatch
      exact decode_eq_ok_iff.2 ⟨hz, .inr ⟨hop ▸ hmake _, himm⟩⟩
  · cases hd : decode w with
    | error why => exact ⟨why, rfl⟩
    | ok i =>
      obtain ⟨row, hrow, hmatch⟩ := exists_row_of_decode hd
      exact absurd hmatch (hnone row hrow)

/-- Settles O5, each word by evaluation. -/
theorem sampleWordsDecode : Obligations.SampleWordsDecode := by
  unfold Obligations.SampleWordsDecode
  decide

end Sys2Proof
end

section
/-! Wire frames and their bytes (O3; spec 30_encoding.md R74). -/

namespace Sys2Proof

variable {c : Config} {bs : List Byte} {i : Instr}

/-- A move frame is named after one key or the other, and keeps its payload (R74, assumption 9). -/
theorem moveFrame_cases (c : Config) (p : List Byte) :
    moveFrame c p = .wireMovePenUp p ∨ moveFrame c p = .wireMovePenDown p := by
  unfold moveFrame
  split
  · exact .inr rfl
  · exact .inl rfl

/-- The bytes that are a frame (R74): one of the three fixed frames, or the move header and 12 bytes. -/
theorem decodeWire_cases (h : decodeWire c bs = .ok i) :
    (bs = [0x04#8, 0x14#8, 0#8, 0#8, 0#8] ∧ i = .wireQueryMatLoaded) ∨
      (bs = [0x04#8, 0x21#8, 0#8, 0#8, 0#8] ∧ i = .wireStartCut) ∨
      (bs = [0x04#8, 0x22#8, 0#8, 0#8, 0#8] ∧ i = .wireStopCut) ∨
      ∃ p, p.length = 12 ∧ bs = 0x0D#8 :: 0x40#8 :: p ∧ i = moveFrame c p := by
  unfold decodeWire at h
  split at h
  · split at h
    · next hfixed =>
      obtain ⟨rfl, rfl⟩ := hfixed
      split at h
      · cases h
        exact .inl ⟨by simp [*], rfl⟩
      · split at h
        · cases h
          exact .inr (.inl ⟨by simp [*], rfl⟩)
        · split at h <;> cases h
          exact .inr (.inr (.inl ⟨by simp [*], rfl⟩))
    · split at h
      · next hmove =>
        obtain ⟨rfl, rfl, hlen⟩ := hmove
        exact .inr (.inr (.inr ⟨_, hlen, rfl, (Except.ok.inj h).symm⟩))
      · cases h
  · cases h

/-- Bytes that decode are the bytes of the frame, and the frame is well formed: its payload has 12 bytes. -/
theorem encode_of_decodeWire (h : decodeWire c bs = .ok i) : encode i = .frame bs ∧ i.wf = true := by
  rcases decodeWire_cases h with ⟨rfl, rfl⟩ | ⟨rfl, rfl⟩ | ⟨rfl, rfl⟩ | ⟨p, hlen, rfl, hi⟩
  · exact ⟨rfl, rfl⟩
  · exact ⟨rfl, rfl⟩
  · exact ⟨rfl, rfl⟩
  · rcases moveFrame_cases c p with hp | hp <;> rw [hi, hp]
    · exact ⟨rfl, decide_eq_true hlen⟩
    · exact ⟨rfl, decide_eq_true hlen⟩

/-- The length of a well-formed frame, and that its first byte counts the others (R74). -/
theorem encode_frame_length (he : encode i = .frame bs) (hwf : i.wf = true) :
    (bs.length = 5 ∨ bs.length = 14) ∧ bs.length = (bs.getD 0 0).toNat + 1 := by
  cases i with
  | wireQueryMatLoaded | wireStartCut | wireStopCut =>
    cases he
    exact ⟨.inl rfl, rfl⟩
  | wireMovePenUp p =>
    cases he
    exact (Laws.EncodingShape.wireMovePenUp p hwf).2
  | wireMovePenDown p =>
    cases he
    exact (Laws.EncodingShape.wireMovePenDown p hwf).2
  | _ => cases he

/-- A well-formed frame's bytes decode to it, a move frame's where the payload shows its key. -/
theorem decodeWire_of_encode (he : encode i = .frame bs) (hwf : i.wf = true)
    (hmove : ∀ p, i = .wireMovePenUp p ∨ i = .wireMovePenDown p → moveFrame c p = i) : decodeWire c bs = .ok i := by
  cases i with
  | wireQueryMatLoaded =>
    cases he
    exact decodeWire_queryMatLoaded c
  | wireStartCut =>
    cases he
    exact decodeWire_startCut c
  | wireStopCut =>
    cases he
    exact decodeWire_stopCut c
  | wireMovePenUp p =>
    cases he
    rw [decodeWire_move c (of_decide_eq_true hwf), hmove p (.inl rfl)]
  | wireMovePenDown p =>
    cases he
    rw [decodeWire_move c (of_decide_eq_true hwf), hmove p (.inr rfl)]
  | _ => cases he

theorem encode_of_not_isCommand (h : i.isCommand = false) : ∃ bs, encode i = .frame bs := by
  cases i with
  | wireQueryMatLoaded | wireStartCut | wireStopCut | wireMovePenUp | wireMovePenDown => exact ⟨_, rfl⟩
  | _ => cases h

/-- Settles O3, one direction by each of `decodeWire_of_encode` and `encode_of_decodeWire`. -/
theorem frameCodingRoundTrip : Obligations.FrameCodingRoundTrip := by
  refine ⟨fun c i hi hwf hmove => ?_, fun c bs i h => ?_⟩
  · obtain ⟨bs, he⟩ := encode_of_not_isCommand hi
    rw [he]
    exact decodeWire_of_encode he hwf hmove
  · obtain ⟨he, hwf⟩ := encode_of_decodeWire h
    exact ⟨he, hwf, Machine.decodeWire_isCommand h, encode_frame_length he hwf⟩

end Sys2Proof
end

section
/-! A wire frame on the link: what goes out, and what a link error leaves (O44, O45; spec 30_encoding.md R74,
44_host_protocol.md R170, R171, R178). -/

namespace Sys2Proof.Machine

variable {s : State} {i : Instr} {bs : List Byte} {l : Link}

/-- The bytes of a frame are what its instruction puts on the link (R178). -/
theorem exec_of_encode_frame (h : encode i = .frame bs) (s : State) : exec i s = .next (s.sendFrame bs) := by
  cases i with
  | wireQueryMatLoaded | wireStartCut | wireStopCut | wireMovePenUp | wireMovePenDown =>
    cases h
    rfl
  | _ => cases h

theorem encode_frame_ne_nil (h : encode i = .frame bs) : bs ≠ [] := by
  cases i with
  | wireQueryMatLoaded | wireStartCut | wireStopCut | wireMovePenUp | wireMovePenDown =>
    cases h
    exact List.cons_ne_nil _ _
  | _ => cases h

/-- A link that takes no byte refuses a frame's first (R178). -/
theorem Link.writeBytes_of_not_takes (ht : l.takes = false) (hbs : bs ≠ []) : l.writeBytes bs = (l, false) := by
  obtain ⟨b, bs, rfl⟩ := List.exists_cons_of_ne_nil hbs
  rw [Link.writeBytes, ht]
  rfl

theorem Link.takes_of_closed (h : l.handle = none) : l.takes = false := by
  rw [Link.takes, h]
  rfl

theorem Link.takes_of_full (h : l.accepts = some 0) : l.takes = false := by
  rw [Link.takes, h]
  exact Bool.and_false _

theorem Link.takes_of_accepts_succ {n : Nat} (ho : l.handle.isSome = true) (ha : l.accepts = some (n + 1)) :
    l.takes = true := by
  rw [Link.takes, ho, ha]
  rfl

/-- An open link that accepts fewer bytes than the frame has takes that many, one unit at a time, and refuses the next
(R178). -/
theorem Link.writeBytes_short {n : Nat} (ho : l.handle.isSome = true) (ha : l.accepts = some n) (hn : n < bs.length) :
    l.writeBytes bs = ({ l with tx := l.tx ++ bs.take n, accepts := some 0 }, false) := by
  induction n generalizing l bs with
  | zero =>
    rw [Link.writeBytes_of_not_takes (Link.takes_of_full ha) (List.ne_nil_of_length_pos hn), List.take_zero,
      List.append_nil, ← ha]
  | succ n ih =>
    obtain ⟨b, bs, rfl⟩ := List.exists_cons_of_length_pos (Nat.zero_lt_of_lt hn)
    have ha' : (l.writeByte b).accepts = some n := by
      rw [Link.writeByte, ha]
      rfl
    rw [Link.writeBytes, if_pos (Link.takes_of_accepts_succ ho ha),
      ih (l := l.writeByte b) ho ha' (Nat.lt_of_succ_lt_succ hn)]
    simp [Link.writeByte]

/-- Settles O44: each of the five frames is sent, and an open link that accepts its length takes it whole
(`Link.writeBytes_all`). -/
theorem wireFramesAreWritten : Obligations.WireFramesAreWritten := by
  intro s i bs hframe ho ha
  have he : encode i = .frame bs := by
    rcases hframe with ⟨rfl, rfl⟩ | ⟨rfl, rfl⟩ | ⟨rfl, rfl⟩ | ⟨p, rfl, rfl⟩ | ⟨p, rfl, rfl⟩ <;> rfl
  rw [exec_of_encode_frame he, State.sendFrame, Link.writeBytes_all _ _ ho ha]
  rfl

/-- Settles O45: a closed link takes no byte, a short one as many as it accepts (`Link.writeBytes_short`). -/
theorem wireFramesPropagateLinkErrors : Obligations.WireFramesPropagateLinkErrors := by
  refine fun s i bs he => ⟨fun hclosed => ?_, fun n ho ha hn => ?_⟩
  · rw [exec_of_encode_frame he, State.sendFrame,
      Link.writeBytes_of_not_takes (Link.takes_of_closed hclosed) (encode_frame_ne_nil he)]
    rfl
  · rw [exec_of_encode_frame he, State.sendFrame, Link.writeBytes_short ho ha hn]
    rfl

end Sys2Proof.Machine
end

section
/-! Host actions in a row, and the host calls made of them (O7, O57, O60; spec 30_encoding.md R73, R75, R76,
44_host_protocol.md R175 to R179). -/

namespace Sys2Proof.Machine

variable {s t : State} {as : List HostAction} {a : HostAction}

/-- A word the decoder rejects performs nothing, and `IllegalOp` is reported (R73, R210). -/
theorem issue_of_error {v : Word} {why : DecodeReject} (h : decode v = .error why) (s : State) :
    issue v s = .next { s with code := .illegalOp, fault := true } := by
  simp only [issue, h, State.fail, ResultCode.fatal, Bool.or_true]

/-- Settles O7: a word that matches no row is rejected (`decodeFollowsTheTable`). -/
theorem illegalWordReportsIllegalOp : Obligations.IllegalWordReportsIllegalOp := by
  intro s v rest hfree hagenda hnone
  obtain ⟨-, hreject⟩ := decodeFollowsTheTable v
  obtain ⟨why, hwhy⟩ := hreject hnone
  rw [step_of_agenda hfree hagenda]
  change issue v _ = _
  rw [issue_of_error hwhy]
  rfl

/-! ## Actions in a row (R54) -/

theorem hostActions_cons (h : hostAction a s = .next t) : hostActions (a :: as) s = hostActions as t := by
  rw [hostActions, h]

theorem hostActions_append (bs : List HostAction) (h : hostActions as s = .next t) :
    hostActions (as ++ bs) s = hostActions bs t := by
  induction as generalizing s with
  | nil =>
    cases h
    rfl
  | cons a as ih =>
    obtain ⟨u, hu⟩ := hostAction_completes a s
    rw [hostActions_cons hu] at h
    rw [List.cons_append, hostActions_cons hu, ih h]

theorem hostActions_singleton (a : HostAction) (s : State) : hostActions [a] s = hostAction a s := by
  obtain ⟨t, ht⟩ := hostAction_completes a s
  rw [hostActions_cons ht, ht]
  rfl

/-- A `SETR` line of a storage register stores the word, and the lines after it follow (R75). -/
theorem hostActions_setr {r : RegName} {v : Word} (h : s.setReg r.index v = some t) :
    hostActions (setrAction r v :: as) s = hostActions as { t with reply := .none } :=
  hostActions_cons (hostAction_regWrite h)

/-- `MVU` and `MVD` are a frame operation with the coordinates in `ARG0` and `ARG1` (R76). -/
theorem hostActions_mv {i : Instr} (h : decode (commandWord i) = .ok i) (x y : Word) (s : State) :
    hostActions [setrAction .ARG0 x, setrAction .ARG1 y, issueAction i] s =
      exec i { s with arg0 := x, arg1 := y, reply := .none } := by
  rw [hostActions_setr rfl, hostActions_setr rfl, hostActions_singleton]
  exact hostAction_regWrite_cmd h

/-- Settles O57: `LDKEY` is four `SETR` lines, `MVU` and `MVD` are `hostActions_mv`. -/
theorem pseudoInstructionEffects : Obligations.PseudoInstructionEffects := by
  refine fun s k0 k1 k2 k3 x y => ⟨?_, hostActions_mv rfl x y s, hostActions_mv rfl x y s⟩
  rw [Asm.expand, hostActions_setr rfl, hostActions_setr rfl, hostActions_setr rfl, hostActions_setr rfl]
  rfl

/-! ## A host call that sends a frame (R175 to R177) -/

/-- Reading bytes of FRM one by one changes the reply only (R50). -/
theorem hostActions_frmReads (addrs : List Nat) (h : ∀ a ∈ addrs, a < 16) (s : State) :
    ∃ r, hostActions (addrs.map fun a => .memRead .frm a 1) s = .next { s with reply := r } := by
  induction addrs generalizing s with
  | nil => exact ⟨s.reply, rfl⟩
  | cons a addrs ih =>
    rw [List.forall_mem_cons] at h
    obtain ⟨ha, hrest⟩ := h
    rw [List.map_cons, hostActions_cons (hostAction_memRead (State.accessOk_iff.2 (.inl ⟨rfl, ha⟩)))]
    exact ih hrest _

/-- A call sends the frame its actions built; reading it out changes the reply only. -/
theorem buildAndSend_eq {build : List HostAction} {n : Nat} (hn : n ≤ 16) (p : Option Pending)
    (h : hostActions build s = .next t) : ∃ r, buildAndSend build n p s =
      .next ((({ t with reply := r } : State).sendFrame t.frameBytes).afterSend p) := by
  have hlt : ∀ a ∈ List.range n, a < 16 := fun a ha => (List.mem_range.1 ha).trans_le hn
  obtain ⟨r, hr⟩ := hostActions_frmReads (List.range n) hlt { t with reply := .data (t.flen.setWidth 32) }
  refine ⟨r, ?_⟩
  simp only [buildAndSend, hostActions_append _ h, hostActions_cons (hostAction_regRead (index := 5) rfl), hr]
  rfl

/-- Fewer bytes than expected do not end a wait (R179). -/
theorem pollSatisfied_of_lt {count expected : Nat} (h : count < expected) : pollSatisfied count expected = false := by
  simp [pollSatisfied, h.ne, h.le]

/-- A frame that an open link without a limit takes goes out, and with fewer than the expected bytes buffered the call
waits (R177, R178). -/
theorem State.afterSend_sendFrame {p : Pending} (ho : s.link.handle.isSome = true) (ha : s.link.accepts = none)
    (hrx : s.link.rx.length < p.expected) (bs : List Byte) : (s.sendFrame bs).afterSend (some p) =
      { s with phase := .awaiting p, callResult := .written, link := { s.link with tx := s.link.tx ++ bs } } := by
  have hsend : s.sendFrame bs =
      { s with callResult := .written, link := { s.link with tx := s.link.tx ++ bs } } := by
    rw [State.sendFrame, Link.writeBytes_all _ _ ho (fun n hn => nomatch ha.symm.trans hn), ha, Option.map_none, ← ha]
    rfl
  rw [hsend]
  simp [State.afterSend, State.poll, Link.bufferedReadCount, pollSatisfied_of_lt hrx]

/-- The 14 bytes of the move frame to `(x, y)` under a key (R154). -/
def moveWireBytes (o : ByteOrder) (key : Key) (x y : Word) : List Byte :=
  [0x0D, 0x40] ++ bytesOfWords o (Cipher.encode [12345, x, y] 3 key)

theorem State.moveFrame_frameBytes_eq (s : State) (key : Key) :
    (s.moveFrame key).frameBytes = moveWireBytes s.cfg.byteOrder key s.arg0 s.arg1 := by
  rw [State.moveFrame_frameBytes, movePayload, moveWireBytes, List.cons_append, List.cons_append, List.nil_append]
  rfl

/-- Setting the coordinates and building their move frame under a key leads from `s` to `t` (R76, R154). -/
def MoveBuilt (key : Key) (x y : Word) (s t : State) : Prop :=
  t.frameBytes = moveWireBytes s.cfg.byteOrder key x y ∧
    t = { s with arg0 := x, arg1 := y, frm := t.frm, flen := 14, code := .ok, reply := .none }

theorem moveBuilt_succeed_moveFrame (key : Key) (x y : Word) (s : State) :
    MoveBuilt key x y s (State.moveFrame { s with arg0 := x, arg1 := y, reply := .none } key).succeed := by
  refine ⟨?_, State.succeed_moveFrame_eq _ key⟩
  rw [State.succeed_frameBytes, State.moveFrame_frameBytes_eq]

/-- `MVU x, y` leaves the frame of the pen-up key in FRM (R76, R154). -/
theorem hostActions_mvu (x y : Word) (s : State) :
    ∃ t, hostActions (Asm.expand (.mvu x y)) s = .next t ∧ MoveBuilt s.cfg.keyPenUp x y s t :=
  ⟨_, hostActions_mv rfl x y s, moveBuilt_succeed_moveFrame ..⟩

/-- `MVD x, y` leaves the frame of the pen-down key in FRM (R76, R155). -/
theorem hostActions_mvd (x y : Word) (s : State) :
    ∃ t, hostActions (Asm.expand (.mvd x y)) s = .next t ∧ MoveBuilt s.cfg.keyPenDown x y s t :=
  ⟨_, hostActions_mv rfl x y s, moveBuilt_succeed_moveFrame ..⟩

/-- What a move call leaves (R177): the frame built and sent, and the host waiting for the reply. -/
theorem buildAndSend_move {build : List HostAction} {key : Key} {x y : Word}
    (hbuild : ∃ t, hostActions build s = .next t ∧ MoveBuilt key x y s t) (ho : s.link.handle.isSome = true)
    (ha : s.link.accepts = none) (hrx : s.link.rx.length < 5) :
    ∃ t, buildAndSend build 14 (some .move) s = .next t ∧ t.phase = .awaiting .move ∧
      t.link = { s.link with tx := s.link.tx ++ moveWireBytes s.cfg.byteOrder key x y } ∧
      t.frameBytes = moveWireBytes s.cfg.byteOrder key x y ∧
      t = { s with arg0 := x, arg1 := y, frm := t.frm, flen := 14, code := .ok, reply := t.reply,
                   phase := .awaiting .move, callResult := .written, link := t.link } := by
  obtain ⟨t, ht, hbytes, hstate⟩ := hbuild
  have hlink : t.link = s.link := by rw [hstate]
  obtain ⟨r, hr⟩ := buildAndSend_eq (n := 14) (by decide) (some .move) ht
  rw [← hlink] at ho ha hrx
  rw [State.afterSend_sendFrame (s := { t with reply := r }) (p := .move) ho ha hrx] at hr
  refine ⟨_, hr, rfl, ?_, hbytes, ?_⟩
  · rw [hbytes, hlink]
  · exact congrArg (fun u : State => { u with
      reply := r, phase := .awaiting .move, callResult := .written,
      link := { t.link with tx := t.link.tx ++ t.frameBytes } }) hstate

/-- Settles O60: either call is `buildAndSend` of its own pseudo-instruction, on the state without the call. -/
theorem hostMoveCallsSendTheirFrame : Obligations.HostMoveCallsSendTheirFrame := by
  intro s rest c x y key hcall hagenda hphase ho ha hrx
  have hfree : ∀ p, s.phase ≠ .awaiting p := by
    rw [hphase]
    exact nofun
  rw [step_of_agenda hfree hagenda]
  simp only [runEvent, clientCall, hphase]
  rcases hcall with ⟨rfl, rfl⟩ | ⟨rfl, rfl⟩ <;> simp only [connectedCall]
  · exact buildAndSend_move (hostActions_mvu x y _) ho ha hrx
  · exact buildAndSend_move (hostActions_mvd x y _) ho ha hrx

end Sys2Proof.Machine
end

section
/-! The equations of the transform: `MX` as integer arithmetic and the words one round of `Encode` leaves (O22, O23;
spec 40_block_transform.md R101, R102). -/

namespace Sys2Proof

/-- The words of a key as an array indexed by number (R9). -/
theorem Key.word_eq_getD (key : Key) (i : BitVec 2) :
    key.word i = [key.k0, key.k1, key.k2, key.k3].getD i.toNat 0 := by
  have hi : i = 0 ∨ i = 1 ∨ i = 2 ∨ i = 3 := by bv_omega
  rcases hi with rfl | rfl | rfl | rfl <;> rfl

namespace Cipher

/-- Settles O22: each word operation as the operation on numbers it stands for. -/
theorem mxIsTheXorOfTwoSums : Obligations.MxIsTheXorOfTwoSums := by
  intro y z sum e p key
  simp only [mx, add32, Key.word_eq_getD, BitVec.toNat_xor, BitVec.toNat_add, BitVec.toNat_ushiftRight,
    BitVec.toNat_shiftLeft, BitVec.toNat_ofNat, Nat.shiftRight_eq_div_pow, Nat.shiftLeft_eq, Nat.reducePow]

section
variable {key : Key} {sum : Word} {p : Nat} {st : List Word × Word}

theorem encodeStep_getD_self (hp : p < st.1.length) (y : Word) :
    (encodeStep key sum p y st).1.getD p 0 = st.1.getD p 0 + mx y st.2 sum (keySel sum) p key :=
  getD_set_self st.1 hp _

theorem encodeStep_getD_ne {j : Nat} (hj : j ≠ p) (y : Word) :
    (encodeStep key sum p y st).1.getD j 0 = st.1.getD j 0 := by
  simp [encodeStep, List.getD_eq_getElem?_getD, List.getElem?_set_ne hj.symm]

/-- An update carries the word it wrote (R102). -/
theorem encodeStep_snd (hp : p < st.1.length) (y : Word) :
    (encodeStep key sum p y st).2 = (encodeStep key sum p y st).1.getD p 0 :=
  (getD_set_self st.1 hp _).symm

end

/-- Where a round of `Encode`, entered with the words `ws` and the previous word `z`, stands after the words below `m`
(R102): these satisfy the round's equation, the others are as they were, and the word carried is the one before `m`. -/
structure EncodedBelow (key : Key) (sum z : Word) (ws : List Word) (m : Nat) (st : List Word × Word) : Prop where
  length : st.1.length = ws.length
  written : ∀ p, p < m → st.1.getD p 0 =
    ws.getD p 0 + mx (ws.getD (p + 1) 0) (if p = 0 then z else st.1.getD (p - 1) 0) sum (keySel sum) p key
  kept : ∀ p, m ≤ p → st.1.getD p 0 = ws.getD p 0
  carried : st.2 = if m = 0 then z else st.1.getD (m - 1) 0

section
variable {key : Key} {sum z : Word} {ws : List Word} {m : Nat} {st : List Word × Word}

/-- The next update of a round reads the next word as it stood, for no word above the updated one has been written. -/
theorem EncodedBelow.step (h : EncodedBelow key sum z ws m st) (hm : m < ws.length) :
    EncodedBelow key sum z ws (m + 1) (encodeStep key sum m (st.1.getD (m + 1) 0) st) := by
  have hlen : m < st.1.length := h.length ▸ hm
  have hprev {p : Nat} (hp : p ≤ m) :
      (if p = 0 then z else (encodeStep key sum m (st.1.getD (m + 1) 0) st).1.getD (p - 1) 0) =
        if p = 0 then z else st.1.getD (p - 1) 0 := by
    split
    · rfl
    · exact encodeStep_getD_ne (by omega) _
  refine ⟨(encodeStep_length ..).trans h.length, fun p hp => ?_, fun p hp => ?_, encodeStep_snd hlen _⟩
  · rw [hprev (by omega)]
    rcases Nat.eq_or_lt_of_le (Nat.le_of_lt_succ hp) with rfl | hlt
    · rw [encodeStep_getD_self hlen, h.carried, h.kept p le_rfl, h.kept (p + 1) (by omega)]
    · rw [encodeStep_getD_ne (by omega), h.written p hlt]
  · rw [encodeStep_getD_ne (by omega), h.kept p (by omega)]

/-- The loop of a round of `Encode` over the words below `m`. -/
theorem encodedBelow_foldl (hm : m ≤ ws.length) : EncodedBelow key sum z ws m
    ((List.range m).foldl (fun t p => encodeStep key sum p (t.1.getD (p + 1) 0) t) (ws, z)) := by
  induction m with
  | zero => exact ⟨rfl, nofun, fun _ _ => rfl, rfl⟩
  | succ m ih =>
    rw [List.range_succ, List.foldl_append]
    exact (ih (by omega)).step (by omega)

end

/-- Settles O23: the loop leaves the equations of the words below the last (`EncodedBelow`), and the last update, which
reads the new word 0, touches none of these. -/
theorem encodeRoundEquations : Obligations.EncodeRoundEquations := by
  intro n key sum z ws hn hlen w' e
  have he : keySel sum = e := keySel_eq sum
  have h := encodedBelow_foldl (key := key) (sum := sum) (z := z) (ws := ws) (m := n - 1) (by omega)
  have hlast : n - 1 < ((List.range (n - 1)).foldl
      (fun t p => encodeStep key sum p (t.1.getD (p + 1) 0) t) (ws, z)).1.length := by
    rw [h.length]
    omega
  have hbelow {p : Nat} (hp : p < n - 1) : w'.getD p 0 = _ := encodeStep_getD_ne (Nat.ne_of_lt hp) _
  refine ⟨(encodeRound_length ..).trans hlen, fun p hp => ?_, ?_, encodeStep_snd hlast _⟩
  · rw [hbelow (by omega), h.written p (by omega), he]
    split
    · rfl
    · rw [hbelow (by omega)]
  · rw [hbelow (p := 0) (by omega), hbelow (p := n - 2) (by omega), ← h.kept (n - 1) le_rfl, ← he]
    refine (encodeStep_getD_self hlast _).trans ?_
    rw [h.carried, if_neg (by omega), show n - 1 - 1 = n - 2 by omega]

end Cipher
end Sys2Proof
end

section
/-! `Encode` undoes `Decode` too, and both act on the first `n` words alone (O25, O26; spec
40_block_transform.md R104). -/

namespace Sys2Proof.Cipher

/-- `Encode` on the arrays of exactly `n` words. -/
def encodeVector (n : Nat) (key : Key) (v : List.Vector Word n) : List.Vector Word n :=
  ⟨encode v.1 n key, (encode_length ..).trans v.2⟩

variable {n : Nat} (key : Key) {ws : List Word}

/-- `Decode` is a left inverse, so `Encode` is injective; there are finitely many arrays of `n` words, so it reaches
every one (R104 (b)). -/
theorem encodeVector_surjective (hn : 2 ≤ n) : Function.Surjective (encodeVector n key) := by
  refine Finite.injective_iff_surjective.1 fun v w h => Subtype.ext ?_
  have hvw : encode v.1 n key = encode w.1 n key := congrArg Subtype.val h
  rw [← decode_encode key v.1 hn v.2.ge, hvw, decode_encode key w.1 hn w.2.ge]

theorem exists_encode_eq (hn : 2 ≤ n) (hw : ws.length = n) :
    ∃ vs : List Word, vs.length = n ∧ encode vs n key = ws := by
  obtain ⟨v, hv⟩ := encodeVector_surjective key hn ⟨ws, hw⟩
  exact ⟨v.1, v.2, congrArg Subtype.val hv⟩

/-- `Encode(Decode(W, n, key), n, key) = W` (R104 (b)). -/
theorem encode_decode (hn : 2 ≤ n) (hw : ws.length = n) : encode (decode ws n key) n key = ws := by
  obtain ⟨vs, hvs, rfl⟩ := exists_encode_eq key hn hw
  rw [decode_encode key vs hn hvs.ge]

/-- Settles O25: `decode_encode`, and with it `encode_decode`. -/
theorem decodeAndEncodeAreInverse : Obligations.DecodeAndEncodeAreInverse :=
  fun _ key ws hn hw => ⟨decode_encode key ws hn hw.ge, encode_decode key hn hw⟩

/-- The neighbours of a cell, around the first `n` words, are among these (R102). -/
theorem mixCell_append (sum : Word) (hw : ws.length = n) (rest : List Word) {p : Nat} (hp : p < n) :
    mixCell n key sum (ws ++ rest) p = mixCell n key sum ws p ++ rest := by
  have hget (i : Nat) : (ws ++ rest).getD (i % n) 0 = ws.getD (i % n) 0 :=
    List.getD_append _ _ _ _ (hw ▸ Nat.mod_lt i (by omega))
  have hself : (ws ++ rest).getD p 0 = ws.getD p 0 := List.getD_append _ _ _ _ (hw ▸ hp)
  simp only [mixCell, mixAt, hget, hself]
  exact List.set_append_left _ _ (hw ▸ hp)

theorem mixWords_append (sum : Word) (hw : ws.length = n) (rest : List Word) :
    mixWords n key sum (ws ++ rest) = mixWords n key sum ws ++ rest := by
  have hcells {m : Nat} (hm : m ≤ n) : (List.range m).foldl (mixCell n key sum) (ws ++ rest) =
      (List.range m).foldl (mixCell n key sum) ws ++ rest := by
    induction m with
    | zero => rfl
    | succ m ih =>
      simp only [List.range_succ, List.foldl_append, List.foldl_cons, List.foldl_nil]
      rw [ih (by omega), mixCell_append key sum ((foldl_mixCell_length ..).trans hw) rest (by omega)]
  exact hcells le_rfl

theorem encodeRounds_append (hw : ws.length = n) (rest : List Word) (q : Nat) :
    encodeRounds n key q (ws ++ rest) = encodeRounds n key q ws ++ rest := by
  induction q with
  | zero => rfl
  | succ q ih => rw [encodeRounds, ih, mixWords_append key _ ((encodeRounds_length ..).trans hw), encodeRounds]

/-- `Encode` reads and writes the first `n` words only (R104 (c)). -/
theorem encode_append (hn : 2 ≤ n) (hw : ws.length = n) (rest : List Word) :
    encode (ws ++ rest) n key = encode ws n key ++ rest := by
  rw [encode_eq_encodeRounds key _ hn (by rw [List.length_append]; omega), encodeRounds_append key hw,
    ← encode_eq_encodeRounds key _ hn hw.ge]

/-- So does its inverse (R104 (c)). -/
theorem decode_append (hn : 2 ≤ n) (hw : ws.length = n) (rest : List Word) :
    decode (ws ++ rest) n key = decode ws n key ++ rest := by
  obtain ⟨vs, hvs, rfl⟩ := exists_encode_eq key hn hw
  rw [← encode_append key hn hvs, decode_encode key _ hn (by rw [List.length_append]; omega),
    decode_encode key _ hn hvs.ge]

/-- Settles O26: an array is its first `n` words and the rest. -/
theorem transformsAreLocal : Obligations.TransformsAreLocal := by
  intro n key ws hn hw
  have htake : (ws.take n).length = n := List.length_take_of_le hw
  rw [← encode_append key hn htake, ← decode_append key hn htake, List.take_append_drop]
  exact ⟨rfl, rfl⟩

end Sys2Proof.Cipher
end

section
/-! The block operations on the machine: the words and bytes of VEC they write, and that they take each other back
(O27 to O30; spec 40_block_transform.md R100, R104 to R107). -/

namespace Sys2Proof

/-- Byte `4i+k` of a sequence of words is byte `k` of word `i` (R45). -/
theorem bytesOfWords_getD (o : ByteOrder) (ws : List Word) {i k : Nat} (hi : i < ws.length) (hk : k < 4) :
    (bytesOfWords o ws).getD (4 * i + k) 0 = (bytesOfWord o (ws.getD i 0)).getD k 0 := by
  rw [← wordAt_bytesOfWords o ws hi, wordAt, bytesOfWord_wordOfBytes]
  match k, hk with
  | 0, _ | 1, _ | 2, _ | 3, _ => rfl

namespace Machine

/-! ## Storing words in VEC -/

/-- What a block operation that stores the `n` words `ws` makes of a state: the words and their bytes in VEC, every byte
above and every other field as it was, and `CODE` OK (R100, R105, R203). -/
structure WordsStored (ws : List Word) (n : Nat) (s t : State) : Prop where
  words : ∀ j, j < n → t.vecWord j = ws.getD j 0
  bytes : ∀ a, a < 4 * n → t.bufByte a = (bytesOfWords s.cfg.byteOrder ws).getD a 0
  kept : ∀ a, 4 * n ≤ a → t.bufByte a = s.bufByte a
  frame : t = { s with buf := t.buf, code := .ok }

section
variable {s : State} {ws : List Word} {n : Nat}

/-- The bytes of BUF under the words stored are the bytes of these words (R43, R45). -/
theorem State.storeVec_bufByte_lt (h : Memory.wf s.buf = true) {a : Nat} (ha : a < 4 * ws.length) :
    (s.storeVec ws).bufByte a = (bytesOfWords s.cfg.byteOrder ws).getD a 0 := by
  have hi : a / 4 < ws.length := by omega
  have hcfg : (s.storeVec ws).cfg = s.cfg := by rw [State.storeVec_eq]
  rw [← Nat.div_add_mod a 4, State.bufByte_eq_vecWord _ _ (Nat.mod_lt a (by decide)), State.storeVec_vecWord s ws h,
    if_pos hi, hcfg, bytesOfWords_getD _ _ hi (Nat.mod_lt a (by decide))]

/-- The bytes of BUF under the words loaded are the bytes of these words (R43, R45). -/
theorem State.bytesOfWords_loadVec_getD {a : Nat} (ha : a < 4 * n) :
    (bytesOfWords s.cfg.byteOrder (s.loadVec n)).getD a 0 = s.bufByte a := by
  have hi : a / 4 < n := by omega
  rw [← Nat.div_add_mod a 4, bytesOfWords_getD _ _ (by rw [State.loadVec_length]; exact hi) (Nat.mod_lt a (by decide)),
    State.loadVec_getD s n _ hi, ← State.bufByte_eq_vecWord _ _ (Nat.mod_lt a (by decide))]

/-- Words stored in VEC read back as an array (R43). -/
theorem State.loadVec_storeVec (h : Memory.wf s.buf = true) (hw : ws.length = n) : (s.storeVec ws).loadVec n = ws := by
  refine List.ext_getElem (by rw [State.loadVec_length, hw]) fun i hi hi' => ?_
  rw [← List.getD_eq_getElem _ 0, ← List.getD_eq_getElem _ 0, State.loadVec_getD _ _ _ (hw ▸ hi'),
    State.storeVec_vecWord s ws h, if_pos hi']

/-- Where two memories agree above the first `n` words, storing the one's words makes the other its equal. -/
theorem State.storeVec_loadVec_buf {t : State} (h : Memory.wf s.buf = true) (ht : Memory.wf t.buf = true)
    (hcfg : t.cfg = s.cfg) (habove : ∀ a, 4 * n ≤ a → t.bufByte a = s.bufByte a) :
    (t.storeVec (s.loadVec n)).buf = s.buf := by
  have hlen : (s.loadVec n).length = n := s.loadVec_length n
  refine Memory.ext_of_read (t.storeVec_wf _ ht) h fun a => ?_
  change (t.storeVec (s.loadVec n)).bufByte a = s.bufByte a
  rcases Nat.lt_or_ge a (4 * n) with ha | ha
  · rw [State.storeVec_bufByte_lt ht (hlen.symm ▸ ha), hcfg, State.bytesOfWords_loadVec_getD ha]
  · rw [State.storeVec_bufByte t _ ht a (hlen.symm ▸ ha), habove a ha]

/-- A store and the `succeed` that ends an operation write BUF and `CODE` only (R203). -/
theorem State.succeed_storeVec_eq :
    (s.storeVec ws).succeed = { s with buf := (s.storeVec ws).succeed.buf, code := .ok } := by
  rw [State.storeVec_eq]
  rfl

theorem State.storeVec_succeed_wordsStored (h : Memory.wf s.buf = true) (hw : ws.length = n) :
    WordsStored ws n s (s.storeVec ws).succeed := by
  subst hw
  exact ⟨fun j hj => (s.storeVec_vecWord ws h j).trans (if_pos hj), fun a ha => State.storeVec_bufByte_lt h ha,
    s.storeVec_bufByte ws h, State.succeed_storeVec_eq⟩

/-- Storing the words VEC held before takes a store of as many words back. -/
theorem State.storeVec_loadVec_succeed (h : Memory.wf s.buf = true) (hw : ws.length = n) :
    ((s.storeVec ws).succeed.storeVec (s.loadVec n)).succeed = { s with code := .ok } := by
  have hcfg : (s.storeVec ws).succeed.cfg = s.cfg := by rw [State.succeed_storeVec_eq]
  have hbuf := State.storeVec_loadVec_buf (t := (s.storeVec ws).succeed) (n := n) h (s.storeVec_wf ws h) hcfg
    fun a ha => s.storeVec_bufByte ws h a (hw ▸ ha)
  rw [State.storeVec_eq, hbuf, State.succeed_storeVec_eq]
  rfl

/-- The words stored in VEC and the key, as the next operation reads them. -/
theorem State.storeVec_succeed_operands (h : Memory.wf s.buf = true) (hw : ws.length = n) :
    (s.storeVec ws).succeed.loadVec n = ws ∧ (s.storeVec ws).succeed.k = s.k :=
  ⟨State.loadVec_storeVec h hw, by rw [State.succeed_storeVec_eq]⟩

/-- `Decode` under the same key takes `Encode` back in VEC (R104 (b)). -/
theorem State.decodeVec_encodeVec (h : Memory.wf s.buf = true) (hn : 2 ≤ n) :
    ((s.encodeVec n).succeed.decodeVec n).succeed = { s with code := .ok } := by
  have hlen : (Cipher.encode (s.loadVec n) n s.k).length = n := by simp
  obtain ⟨hload, hk⟩ := State.storeVec_succeed_operands h hlen
  rw [State.decodeVec, State.encodeVec, hload, hk, Cipher.decode_encode s.k _ hn (by simp),
    State.storeVec_loadVec_succeed h hlen]

/-- `Encode` under the same key takes `Decode` back in VEC (R104 (b)). -/
theorem State.encodeVec_decodeVec (h : Memory.wf s.buf = true) (hn : 2 ≤ n) :
    ((s.decodeVec n).succeed.encodeVec n).succeed = { s with code := .ok } := by
  have hlen : (Cipher.decode (s.loadVec n) n s.k).length = n := by simp
  obtain ⟨hload, hk⟩ := State.storeVec_succeed_operands h hlen
  rw [State.encodeVec, State.decodeVec, hload, hk, Cipher.encode_decode s.k hn (by simp),
    State.storeVec_loadVec_succeed h hlen]

end

/-! ## The operations -/

section
variable {n len : Nat}

/-- `XFORM n` for `n ≥ 2` is the range check and then `Encode` (R100). -/
theorem exec_xform_natCast (hn : 2 ≤ n) (s : State) : exec (.xform n) s =
    if s.cfg.nmax < n then .next (s.fail .vectorRange) else .next (s.encodeVec n).succeed := by
  change execXform n s = _
  rw [execXform, if_pos (by omega)]
  simp only [Nat.cast_lt, Int.toNat_natCast]

/-- `XFORM -n` for `n ≥ 2` is the range check and then `Decode` (R100). -/
theorem exec_xform_neg_natCast (hn : 2 ≤ n) (s : State) : exec (.xform (-n)) s =
    if s.cfg.nmax < n then .next (s.fail .vectorRange) else .next (s.decodeVec n).succeed := by
  change execXform (-n) s = _
  rw [execXform, if_neg (by omega), if_pos (by omega)]
  simp only [neg_neg, Nat.cast_lt, Int.toNat_natCast]

theorem payloadLengthOk_eq_true (hmod : len % 4 = 0) (hlen : 8 ≤ len) : payloadLengthOk len = true := by
  simp [payloadLengthOk, hmod, hlen]

/-- `ENCB` past its length check is `XFORM` of the words (R105, R107 (b)). -/
theorem exec_encb_eq_xform (hmod : len % 4 = 0) (hlen : 8 ≤ len) (s : State) :
    exec (.encb len) s = exec (.xform (len / 4 : Nat)) s := by
  change execEncb len s = _
  rw [exec_xform_natCast (by omega), execEncb, payloadLengthOk_eq_true hmod hlen]
  rfl

/-- `DECB` past its length check is the inverse `XFORM` of the words (R106, R107 (b)). -/
theorem exec_decb_eq_xform (hmod : len % 4 = 0) (hlen : 8 ≤ len) (s : State) :
    exec (.decb len) s = exec (.xform (-(len / 4 : Nat))) s := by
  change execDecb len s = _
  rw [exec_xform_neg_natCast (by omega), execDecb, payloadLengthOk_eq_true hmod hlen]
  rfl

end

section
variable {n : Nat} {s : State}

theorem exec_xform_encodes (hn : 2 ≤ n) (hmax : n ≤ s.cfg.nmax) :
    exec (.xform n) s = .next (s.encodeVec n).succeed := by
  rw [exec_xform_natCast hn, if_neg (Nat.not_lt.2 hmax)]

theorem exec_xform_decodes (hn : 2 ≤ n) (hmax : n ≤ s.cfg.nmax) :
    exec (.xform (-n)) s = .next (s.decodeVec n).succeed := by
  rw [exec_xform_neg_natCast hn, if_neg (Nat.not_lt.2 hmax)]

theorem State.encodeVec_wordsStored (h : Memory.wf s.buf = true) (n : Nat) :
    WordsStored (Cipher.encode (s.loadVec n) n s.k) n s (s.encodeVec n).succeed :=
  State.storeVec_succeed_wordsStored h (by simp)

theorem State.decodeVec_wordsStored (h : Memory.wf s.buf = true) (n : Nat) :
    WordsStored (Cipher.decode (s.loadVec n) n s.k) n s (s.decodeVec n).succeed :=
  State.storeVec_succeed_wordsStored h (by simp)

/-- `XFORM n` then `XFORM -n` (R104 (b)). -/
theorem exec_xform_roundTrip (h : Memory.wf s.buf = true) (hn : 2 ≤ n) (hmax : n ≤ s.cfg.nmax) :
    ∃ t, exec (.xform n) s = .next t ∧ exec (.xform (-n)) t = .next { s with code := .ok } := by
  refine ⟨_, exec_xform_encodes hn hmax, ?_⟩
  rw [exec_xform_decodes hn (by rw [State.succeed_cfg, State.encodeVec_eq]; exact hmax), State.decodeVec_encodeVec h hn]

/-- `XFORM -n` then `XFORM n` (R104 (b)). -/
theorem exec_xform_neg_roundTrip (h : Memory.wf s.buf = true) (hn : 2 ≤ n) (hmax : n ≤ s.cfg.nmax) :
    ∃ t, exec (.xform (-n)) s = .next t ∧ exec (.xform n) t = .next { s with code := .ok } := by
  refine ⟨_, exec_xform_decodes hn hmax, ?_⟩
  rw [exec_xform_encodes hn (by rw [State.succeed_cfg, State.decodeVec_eq]; exact hmax), State.encodeVec_decodeVec h hn]

end

/-- Settles O29: past the length check the two are one operation. -/
theorem byteWrapperIsTheTransform : Obligations.ByteWrapperIsTheTransform :=
  fun _ s hmod hlen => ⟨exec_encb_eq_xform hmod hlen s, exec_decb_eq_xform hmod hlen s⟩

/-- Settles O27: a vector length in range is a natural number or the negative of one. -/
theorem xformTransformsTheVector : Obligations.XformTransformsTheVector := by
  refine ⟨fun n s h hn hmax => ?_, fun n s h hn hmax => ?_⟩
  · obtain ⟨m, rfl⟩ := Int.eq_ofNat_of_zero_le (show 0 ≤ n by omega)
    have stored := State.encodeVec_wordsStored h m
    exact ⟨_, exec_xform_encodes (by omega) (by omega), stored.words, stored.kept, stored.frame⟩
  · obtain ⟨m, hm⟩ := Int.eq_ofNat_of_zero_le (show 0 ≤ -n by omega)
    obtain rfl : n = -m := by omega
    have stored := State.decodeVec_wordsStored h m
    rw [hm, Int.toNat_natCast]
    exact ⟨_, exec_xform_decodes (by omega) (by omega), stored.words, stored.kept, stored.frame⟩

/-- Settles O28: the wrappers are the transform (`exec_encb_eq_xform`), and the words' bytes lie in BUF in order. -/
theorem encbAndDecbTransformTheBuffer : Obligations.EncbAndDecbTransformTheBuffer := by
  intro len s h hmod hlen hmax
  have encoded := State.encodeVec_wordsStored h (len / 4)
  have decoded := State.decodeVec_wordsStored h (len / 4)
  rw [exec_encb_eq_xform hmod hlen, exec_decb_eq_xform hmod hlen]
  exact ⟨⟨_, exec_xform_encodes (by omega) (by omega), fun a ha => encoded.bytes a (by omega),
      fun a ha => encoded.kept a (by omega), encoded.frame⟩,
    ⟨_, exec_xform_decodes (by omega) (by omega), fun a ha => decoded.bytes a (by omega),
      fun a ha => decoded.kept a (by omega), decoded.frame⟩⟩

/-- Settles O30: the two orders on `XFORM`, which the wrappers are. -/
theorem blockRoundTrips : Obligations.BlockRoundTrips := by
  refine ⟨fun n s h hn hmax => ?_, fun len s h hmod hlen hmax => ?_⟩
  · rcases n.natAbs_eq with hpos | hneg
    · rw [hpos]
      exact exec_xform_roundTrip h hn hmax
    · rw [hneg, neg_neg]
      exact exec_xform_neg_roundTrip h hn hmax
  · simp only [exec_encb_eq_xform hmod hlen, exec_decb_eq_xform hmod hlen]
    exact ⟨exec_xform_roundTrip h (by omega) (by omega), exec_xform_neg_roundTrip h (by omega) (by omega)⟩

end Machine
end Sys2Proof
end

section
/-! A move payload decrypts on the machine (O42; spec 42_command_frames.md R154 to R156). -/

namespace Sys2Proof.Machine

variable {i : Instr} {s t u : State} {key : Key}

/-- Either move operation leaves `MoveFrame` of its own key in FRM (R154, R155). -/
theorem exec_move_frm (hi : i = .frmvu ∧ key = s.cfg.keyPenUp ∨ i = .frmvd ∧ key = s.cfg.keyPenDown)
    (h : exec i s = .next t) : t.frm = (s.moveFrame key).frm := by
  rcases hi with ⟨rfl, rfl⟩ | ⟨rfl, rfl⟩ <;> cases h <;> rfl

/-- FRM bytes 2 to 13 are the payload (R154). -/
theorem State.moveFrame_frmByte (s : State) (key : Key) {j : Nat} (hj : j < 12) :
    (s.moveFrame key).frmByte (2 + j) = (movePayload s.cfg.byteOrder key s.arg0 s.arg1).getD j 0 := by
  rw [State.frmByte, State.moveFrame_frm_toList, List.getD_append _ _ _ _ (by simp [bytesOfWords_length]; omega),
    List.getD_append_right _ _ _ _ (by simp), List.length_cons, List.length_singleton, Nat.add_sub_cancel_left]
  rfl

/-- A payload in BUF reads in VEC as the words it was made of (R45, R154). -/
theorem State.loadVec_of_movePayload {x y : Word}
    (h : ∀ j, j < 12 → u.bufByte j = (movePayload u.cfg.byteOrder key x y).getD j 0) :
    u.loadVec 3 = Cipher.encode [Config.marker, x, y] 3 key := by
  refine List.ext_getElem (by simp) fun j hj hj' => ?_
  have hj3 : j < 3 := by simpa using hj
  rw [← List.getD_eq_getElem _ 0, ← List.getD_eq_getElem _ 0, State.loadVec_getD _ _ _ hj3,
    ← wordAt_bytesOfWords u.cfg.byteOrder _ hj', State.vecWord, h _ (by omega), h _ (by omega), h _ (by omega),
    h _ (by omega)]
  rfl

/-- Settles O42: VEC holds `Encode` of the marker and the coordinates, and `decode_encode` undoes it. -/
theorem movePayloadDecrypts : Obligations.MovePayloadDecrypts := by
  intro i s t u hi hexec hcfg hmax hwf hcopy
  have hpayload (j : Nat) (hj : j < 12) :
      u.bufByte j = (movePayload u.cfg.byteOrder u.k s.arg0 s.arg1).getD j 0 := by
    rw [hcopy j hj, State.frmByte, exec_move_frm hi hexec, hcfg]
    exact s.moveFrame_frmByte u.k hj
  have words := (State.decodeVec_wordsStored hwf 3).words
  rw [State.loadVec_of_movePayload hpayload, Cipher.decode_encode (n := 3) u.k _ (by decide) le_rfl] at words
  exact ⟨_, exec_xform_decodes (n := 3) (by decide) (hcfg ▸ hmax), words 0 (by decide), words 1 (by decide),
    words 2 (by decide)⟩

end Sys2Proof.Machine
end

section
/-! Regeneration and the operations of the counter unit that work on one block or byte (O31 to O34; spec
41_counter_mode.md R131 to R135). -/

namespace Sys2Proof.Machine

variable {s : State}

/-! ## Regeneration -/

/-- KS holds all 8 bytes of the block, word 0 first (R131). -/
theorem keystreamBlock_toList (o : ByteOrder) (key : Key) (high low : Word) :
    (keystreamBlock o key high low).toList = bytesOfWords o (Cipher.encode [high, low] 2 key) := by
  have hlen : (bytesOfWords o (Cipher.encode [high, low] 2 key)).length = 8 := by simp [bytesOfWords_length]
  refine List.ext_getElem (by rw [Vector.length_toList, hlen]) fun i _ hi => ?_
  simp [keystreamBlock, hi]

/-- Two words side by side as the number `HIGH*2^32 + LOW` (R18). -/
theorem toNat_append_word (high low : Word) : (high ++ low : BitVec 64).toNat = 4294967296 * high.toNat + low.toNat := by
  rw [BitVec.toNat_append, ← Nat.shiftLeft_add_eq_or_of_lt low.isLt, Nat.shiftLeft_eq, Nat.mul_comm]

/-- Adding 1 to a 64-bit number carries from its low word into its high word when the low word is all ones (R131). -/
theorem append_add_one (high low : Word) :
    (high ++ low : BitVec 64) + 1 = (if low = 0xFFFFFFFF#32 then high + 1 else high) ++ (low + 1) := by
  apply BitVec.eq_of_toNat_eq
  simp only [BitVec.toNat_add, toNat_append_word, BitVec.ofNat_eq_ofNat, BitVec.toNat_ofNat]
  split
  · subst low
    simp only [BitVec.toNat_add, BitVec.toNat_ofNat]
    omega
  · have hlow : low.toNat ≠ (0xFFFFFFFF#32).toNat := fun h => ‹¬ low = _› (BitVec.eq_of_toNat_eq h)
    simp only [BitVec.toNat_ofNat] at hlow
    omega

theorem State.regen_counter (s : State) : s.regen.counter = s.counter + 1 := by
  rw [State.counter, State.counter, State.regen_high, State.regen_low, append_add_one]

/-- Settles O31: the block is of the counter as it was, and `regen_counter` is the carry from `LOW` into `HIGH`. -/
theorem regenEncryptsThenCounts : Obligations.RegenEncryptsThenCounts :=
  fun s => ⟨by rw [State.regen_ks, keystreamBlock_toList], s.regen_counter, s.regen_eq⟩

/-! ## Starting the stream -/

theorem exec_ctrinit (s : State) : exec .ctrinit s = .next (s.initCounter s.arg0).succeed := rfl

theorem exec_ctrinit0 (s : State) : exec .ctrinit0 s = .next (s.initCounter 0).succeed := rfl

@[simp] theorem State.initCounter_ks (s : State) (iv : Word) :
    (s.initCounter iv).ks = keystreamBlock s.cfg.byteOrder s.cfg.keyCtr 0 iv :=
  State.regen_ks _

/-- The counter `(0, iv)` is the number `iv` (R132). -/
theorem State.counter_withIv (s : State) (iv : Word) :
    ({ s with high := 0, low := iv } : State).counter = iv.setWidth 64 :=
  (BitVec.setWidth_eq_append (by decide)).symm

/-- Setting the counter to `(0, iv)` and regenerating leaves `iv + 1` (R132). -/
theorem State.initCounter_counter (s : State) (iv : Word) :
    (s.initCounter iv).counter = iv.setWidth 64 + 1 :=
  (State.regen_counter _).trans (congrArg (· + 1) (s.counter_withIv iv))

/-- What setting the counter writes, none of which it reads (R132). -/
theorem State.initCounter_fields (s : State) (iv : Word) : s.initCounter iv =
    { s with ks := keystreamBlock s.cfg.byteOrder s.cfg.keyCtr 0 iv, high := if iv = 0xFFFFFFFF#32 then 1 else 0,
             low := iv + 1, cur := 0, cvalid := true } := by
  have hhigh : (s.initCounter iv).high = if iv = 0xFFFFFFFF#32 then 1 else 0 := State.regen_high _
  have hlow : (s.initCounter iv).low = iv + 1 := State.regen_low _
  rw [State.initCounter_eq, State.initCounter_ks, hhigh, hlow]

/-- Settles O32: both operations are `initCounter`, which reads nothing of the counter unit. -/
theorem ctrinitStartsTheStream : Obligations.CtrinitStartsTheStream := by
  refine fun s => ⟨⟨_, exec_ctrinit s, s.initCounter_ks _, s.initCounter_counter _, ?_⟩, ?_⟩
  · rw [State.initCounter_eq]
    rfl
  · rw [exec_ctrinit0, State.initCounter_fields]
    rfl

/-! ## The operations of an initialised counter -/

theorem exec_ctrregen_of_cvalid (hv : s.cvalid = true) : exec .ctrregen s = .next s.regen.succeed := by
  change execCtrregen s = _
  rw [execCtrregen, hv]
  rfl

theorem exec_ctrnext_of_cvalid (hv : s.cvalid = true) :
    exec .ctrnext s = .next ({ s.nextByte.2 with res := s.nextByte.1.setWidth 32 } : State).succeed := by
  change execCtrnext s = _
  rw [execCtrnext, hv]
  rfl

/-- `CTRXOR len` past its two checks (R136, R214). -/
theorem exec_ctrxor_of_cvalid {len : Nat} (hv : s.cvalid = true) (hlen : len ≤ 4 * s.cfg.nmax) :
    exec (.ctrxor len) s = .next (s.xorStream 0 len).succeed := by
  change execCtrxor len s = _
  rw [execCtrxor, hv, if_neg (by decide), Config.bufBytes, if_neg (Nat.not_lt.2 hlen)]

/-- Settles O33: `CTRREGEN` is `Regen()`. -/
theorem ctrregenMovesToTheNextBlock : Obligations.CtrregenMovesToTheNextBlock := by
  refine fun s hv => ⟨_, exec_ctrregen_of_cvalid hv, s.regen_ks, s.regen_counter, ?_⟩
  rw [State.regen_eq]
  rfl

/-! ## One keystream byte -/

/-- While the buffer lasts, `NextByte()` moves the cursor only (R135). -/
theorem State.nextByte_of_lt (hc : s.cur.toNat < 8) :
    s.nextByte = (s.ks.toList.getD s.cur.toNat 0, { s with cur := s.cur + 1 }) := by
  have hne : s.cur ≠ 8 := fun h => absurd (congrArg BitVec.toNat h) hc.ne
  rw [State.nextByte, if_neg hne]
  rfl

/-- On a spent buffer `NextByte()` is `Regen()` and the new block's byte 0 (R135). -/
theorem State.nextByte_of_eq (hc : s.cur.toNat = 8) :
    s.nextByte = (s.regen.ks.toList.getD 0 0, { s.regen with cur := 1 }) := by
  have heq : s.cur = 8 := BitVec.eq_of_toNat_eq hc
  rw [State.nextByte, if_pos heq]
  rfl

/-- Settles O34: the two cases of `NextByte()`. -/
theorem ctrnextTakesOneByte : Obligations.CtrnextTakesOneByte := by
  refine ⟨fun s hv hc => ?_, fun s hv hc => ⟨_, exec_ctrnext_of_cvalid hv, ?_⟩⟩
  · rw [exec_ctrnext_of_cvalid hv, State.nextByte_of_lt hc]
    rfl
  · rw [State.nextByte_of_eq hc]
    refine ⟨s.regen_ks, rfl, s.regen_counter, ?_⟩
    rw [State.regen_eq]
    rfl

end Sys2Proof.Machine
end

section
/-! The keystream byte by byte: where `NextByte()` stands in the stream, the closed form, and how often it regenerates
(O36; spec 41_counter_mode.md R135, R137). -/

namespace Sys2Proof.Machine

variable {s : State} {v : BitVec 64} {k : Nat}

/-! ## The cursor and the counter -/

/-- `NextByte()` takes the cursor from `c ≤ 8` to `c mod 8 + 1` and regenerates `floor(c/8)` times (R135). -/
theorem State.nextByte_cursor (hc : s.cur.toNat ≤ 8) :
    s.nextByte.2.cur.toNat = s.cur.toNat % 8 + 1 ∧
    s.nextByte.2.counter = s.counter + BitVec.ofNat 64 (s.cur.toNat / 8) := by
  rcases Nat.lt_or_eq_of_le hc with hlt | heq
  · rw [State.nextByte_of_lt hlt, Nat.div_eq_of_lt hlt, Nat.mod_eq_of_lt hlt]
    refine ⟨?_, (BitVec.add_zero _).symm⟩
    change (s.cur.toNat + 1) % 16 = s.cur.toNat + 1
    omega
  · rw [State.nextByte_of_eq heq, heq]
    exact ⟨rfl, s.regen_counter⟩

/-- The cursor and the counter after one or more bytes from a cursor of at most 8 (R137, R231). -/
theorem State.takeBytes_succ_cursor (n : Nat) (hc : s.cur.toNat ≤ 8) :
    (s.takeBytes (n + 1)).2.cur.toNat = (s.cur.toNat + n) % 8 + 1 ∧
    (s.takeBytes (n + 1)).2.counter = s.counter + BitVec.ofNat 64 ((s.cur.toNat + n) / 8) := by
  induction n generalizing s with
  | zero => exact State.nextByte_cursor hc
  | succ n ih =>
    obtain ⟨hcur, hcounter⟩ := State.nextByte_cursor hc
    obtain ⟨ihcur, ihcounter⟩ := ih (State.nextByte_cur_le hc)
    rw [hcur] at ihcur ihcounter
    refine ⟨ihcur.trans (by omega), ihcounter.trans ?_⟩
    rw [hcounter, BitVec.add_assoc, ← BitVec.ofNat_add]
    congr 2
    omega

/-! ## The bytes -/

/-- The keystream block of a 64-bit counter value (R131, R137). -/
def counterBlock (c : Config) (n : BitVec 64) : Vector Byte 8 :=
  keystreamBlock c.byteOrder c.keyCtr (n.extractLsb' 32 32) (n.extractLsb' 0 32)

theorem streamByte_eq_counterBlock (c : Config) (v : BitVec 64) (j : Nat) :
    streamByte c v j = (counterBlock c (v + BitVec.ofNat 64 (j / 8))).toList.getD (j % 8) 0 := rfl

/-- The block of the counter is the block of `(HIGH, LOW)` (R18, R131). -/
theorem counterBlock_counter (s : State) :
    counterBlock s.cfg s.counter = keystreamBlock s.cfg.byteOrder s.cfg.keyCtr s.high s.low := by
  rw [counterBlock, State.counter, BitVec.extractLsb'_append_eq_left, BitVec.extractLsb'_append_eq_right]

/-- The counter unit stands in block `k` of the stream with 64-bit initial counter `v`: KS is that block and the counter
is one past it (R131, R137). -/
structure InBlock (v : BitVec 64) (k : Nat) (s : State) : Prop where
  ks : s.ks = counterBlock s.cfg (v + BitVec.ofNat 64 k)
  counter : s.counter = v + BitVec.ofNat 64 k + 1

/-- `Regen()` at the counter `v + k` enters block `k` (R131). -/
theorem inBlock_regen (h : s.counter = v + BitVec.ofNat 64 k) : InBlock v k s.regen := by
  refine ⟨?_, ?_⟩
  · rw [State.regen_ks, ← counterBlock_counter, h, State.regen_eq]
  · rw [State.regen_counter, h]

theorem InBlock.regen (h : InBlock v k s) : InBlock v (k + 1) s.regen :=
  inBlock_regen (by rw [h.counter, BitVec.ofNat_add, BitVec.add_assoc]; rfl)

/-- Standing in block `k`, `NextByte()` gives byte `8k + CUR` of the stream and then stands in the block that byte is
of (R135, R137). -/
theorem InBlock.nextByte (h : InBlock v k s) (hc : s.cur.toNat ≤ 8) :
    s.nextByte.1 = streamByte s.cfg v (8 * k + s.cur.toNat) ∧ InBlock v (k + s.cur.toNat / 8) s.nextByte.2 := by
  rcases Nat.lt_or_eq_of_le hc with hlt | heq
  · rw [State.nextByte_of_lt hlt, streamByte_eq_counterBlock, show (8 * k + s.cur.toNat) / 8 = k by omega,
      show (8 * k + s.cur.toNat) % 8 = s.cur.toNat by omega, show k + s.cur.toNat / 8 = k by omega, ← h.ks]
    exact ⟨rfl, h.ks, h.counter⟩
  · have hcfg : s.regen.cfg = s.cfg := by rw [State.regen_eq]
    rw [State.nextByte_of_eq heq, streamByte_eq_counterBlock, show (8 * k + s.cur.toNat) / 8 = k + 1 by omega,
      show (8 * k + s.cur.toNat) % 8 = 0 by omega, show k + s.cur.toNat / 8 = k + 1 by omega, ← hcfg, ← h.regen.ks]
    exact ⟨rfl, h.regen.ks, h.regen.counter⟩

/-- `n` bytes taken in block `k` are the bytes of the stream from `8k + CUR` on (R137). -/
theorem InBlock.takeBytes (h : InBlock v k s) (hc : s.cur.toNat ≤ 8) (n : Nat) :
    (s.takeBytes n).1 = (List.range n).map fun j => streamByte s.cfg v (8 * k + s.cur.toNat + j) := by
  induction n generalizing s k with
  | zero => rfl
  | succ n ih =>
    obtain ⟨hbyte, hnext⟩ := h.nextByte hc
    obtain ⟨hcur, -⟩ := State.nextByte_cursor hc
    rw [State.takeBytes, List.range_succ_eq_map, List.map_cons, List.map_map, hbyte]
    refine congrArg _ ((ih hnext (State.nextByte_cur_le hc)).trans (List.map_congr_left fun j _ => ?_))
    rw [State.nextByte_cfg, hcur, Function.comp_apply]
    congr 1
    omega

/-- After `CTRINIT` with IV `iv` the unit stands in block 0 of the stream of `iv` (R132). -/
theorem State.initCounter_inBlock (s : State) (iv : Word) : InBlock (iv.setWidth 64) 0 (s.initCounter iv).succeed :=
  have hregen := inBlock_regen (k := 0) ((s.counter_withIv iv).trans (BitVec.add_zero _).symm)
  ⟨hregen.ks, hregen.counter⟩

/-- Settles O36: the stream is entered at block 0 with the cursor 0. -/
theorem keystreamClosedForm : Obligations.KeystreamClosedForm := by
  intro s s0 n h v
  cases h
  have hblock : InBlock v 0 (s.initCounter s.arg0).succeed := s.initCounter_inBlock s.arg0
  have hcounter : (s.initCounter s.arg0).succeed.counter = v + 1 := s.initCounter_counter s.arg0
  have hcur : (s.initCounter s.arg0).succeed.cur.toNat = 0 := rfl
  have hcfg : (s.initCounter s.arg0).succeed.cfg = s.cfg := by rw [State.initCounter_eq]; rfl
  refine ⟨?_, ?_, fun hn => ?_⟩
  · rw [hblock.takeBytes (hcur.trans_le (by decide)), hcfg, hcur]
    simp only [Nat.mul_zero, Nat.zero_add]
  · rintro rfl
    exact ⟨rfl, hcounter⟩
  · obtain ⟨m, rfl⟩ := Nat.exists_eq_add_one_of_ne_zero hn.ne'
    obtain ⟨hcur', hcounter'⟩ := State.takeBytes_succ_cursor m (hcur.trans_le (by decide))
    rw [hcur, Nat.zero_add] at hcur' hcounter'
    refine ⟨hcur', hcounter'.trans ?_⟩
    rw [hcounter, Nat.add_sub_cancel, BitVec.add_assoc, BitVec.add_assoc, BitVec.add_comm 1]

end Sys2Proof.Machine
end

section
/-! `CTRXOR`: its effect on BUF and the counter unit, and what several calls on one stream do together (O35, O37 to O39;
spec 41_counter_mode.md R136, R138, 70_reset_and_hazards.md R231). -/

namespace Sys2Proof.Machine

variable {s t : State} {len : Nat}

/-- What `CTRXOR n` makes of a state: the next `n` keystream bytes XORed into the first `n` bytes of BUF, every byte above
as it was, the counter unit as `n` `NextByte()`s leave it, and `CODE` OK (R136, R203). -/
structure StreamXored (n : Nat) (s t : State) : Prop where
  xored : ∀ a, a < n → t.bufByte a = s.bufByte a ^^^ (s.takeBytes n).1.getD a 0
  kept : ∀ a, n ≤ a → t.bufByte a = s.bufByte a
  wf : Memory.wf t.buf = true
  frame : t = { (s.takeBytes n).2 with buf := t.buf, code := .ok }

theorem State.xorStream_succeed_streamXored (h : Memory.wf s.buf = true) (n : Nat) :
    StreamXored n s (s.xorStream 0 n).succeed where
  xored a ha := (s.xorStream_bufByte 0 n h a).trans (if_pos (by omega))
  kept a ha := (s.xorStream_bufByte 0 n h a).trans (if_neg (by omega))
  wf := s.xorStream_wf 0 n h
  frame := by
    rw [State.xorStream_counter]
    rfl

/-- `CTRXOR len` completes with its effect (R136). -/
theorem exec_ctrxor_streamXored (h : Memory.wf s.buf = true) (hv : s.cvalid = true) (hlen : len ≤ 4 * s.cfg.nmax) :
    ∃ t, exec (.ctrxor len) s = .next t ∧ StreamXored len s t :=
  ⟨_, exec_ctrxor_of_cvalid hv hlen, State.xorStream_succeed_streamXored h len⟩

/-- `CTRXOR` writes BUF, the counter unit but `CVALID`, and `CODE` only (R136). -/
theorem StreamXored.frame_eq (h : StreamXored len s t) :
    t = { s with buf := t.buf, ks := t.ks, high := t.high, low := t.low, cur := t.cur, code := .ok } := by
  rw [h.frame, State.takeBytes_eq]

/-- Settles O35, by `exec_ctrxor_streamXored`; no byte is taken for `len = 0`. -/
theorem ctrxorXorsTheKeystream : Obligations.CtrxorXorsTheKeystream := by
  intro len s h hv hlen
  have hxor := State.xorStream_succeed_streamXored h len
  refine ⟨_, exec_ctrxor_of_cvalid hv hlen, hxor.xored, hxor.kept, hxor.frame, hxor.frame_eq, ?_⟩
  rintro rfl
  rfl

/-- Settles O37: the counter is the one `len` bytes leave, and `takeBytes_succ_cursor` counts the regenerations. -/
theorem ctrxorRegenerationCount : Obligations.CtrxorRegenerationCount := by
  intro len s t hv hc hpos hlen hexec
  rw [exec_ctrxor_of_cvalid hv hlen] at hexec
  cases hexec
  obtain ⟨n, rfl⟩ := Nat.exists_eq_add_one_of_ne_zero (Nat.ne_of_gt hpos)
  obtain ⟨-, hcounter⟩ := State.takeBytes_succ_cursor n hc
  rw [State.xorStream_counter, ← Nat.add_assoc, Nat.add_sub_cancel]
  exact hcounter

/-! ## Two calls on one stream -/

/-- `Regen()` neither reads nor writes `CODE` (R131). -/
theorem State.regen_succeed (s : State) : s.succeed.regen = s.regen.succeed := by
  unfold State.regen
  rw [State.succeed_low]
  split <;> rfl

/-- `NextByte()` neither reads nor writes `CODE` (R135). -/
theorem State.nextByte_succeed (s : State) : s.succeed.nextByte = (s.nextByte.1, s.nextByte.2.succeed) := by
  unfold State.nextByte
  rw [State.succeed_cur, State.regen_succeed]
  split <;> rfl

/-- Taking keystream bytes neither reads nor writes `CODE`. -/
theorem State.takeBytes_succeed (s : State) (n : Nat) :
    s.succeed.takeBytes n = ((s.takeBytes n).1, (s.takeBytes n).2.succeed) := by
  induction n generalizing s with
  | zero => rfl
  | succ n ih => simp only [State.takeBytes, State.nextByte_succeed, ih]

/-- `a + b` bytes are `a` bytes and then `b` more (R138 (a)). -/
theorem State.takeBytes_add (s : State) (a b : Nat) : s.takeBytes (a + b) =
    ((s.takeBytes a).1 ++ ((s.takeBytes a).2.takeBytes b).1, ((s.takeBytes a).2.takeBytes b).2) := by
  induction a generalizing s with
  | zero => rw [Nat.zero_add]; rfl
  | succ a ih =>
    rw [Nat.add_right_comm, State.takeBytes, ih]
    rfl

/-- After `CTRXOR a` the stream goes on where `a` bytes left it, whatever the host then loads into BUF (R138 (a)). -/
theorem StreamXored.takeBytes {a : Nat} (h : StreamXored a s t) (m : List Host.Cell) (b : Nat) :
    ({ t with buf := m } : State).takeBytes b = (((s.takeBytes a).2.takeBytes b).1,
      { ((s.takeBytes a).2.takeBytes b).2 with buf := m, code := .ok }) := by
  rw [h.frame]
  change ({ (s.takeBytes a).2.succeed with buf := m } : State).takeBytes b = _
  rw [State.takeBytes_buf, State.takeBytes_succeed]
  rfl

/-- Settles O38: the keystream of the long call is the two short calls' in a row (`takeBytes_add`). -/
theorem streamContinuity : Obligations.StreamContinuity := by
  intro a b s m2 m12 hv hlen hbuf hm2 hm12 hfirst hsecond
  obtain ⟨t, ht, hxt⟩ := exec_ctrxor_streamXored (len := a) hbuf hv (by omega)
  have htv : t.cvalid = true := by rw [hxt.frame_eq]; exact hv
  have htcfg : t.cfg = s.cfg := by rw [hxt.frame_eq]
  obtain ⟨u, hu, hxu⟩ := exec_ctrxor_streamXored (s := { t with buf := m2 }) (len := b) hm2 htv
    (by change b ≤ 4 * t.cfg.nmax; rw [htcfg]; omega)
  obtain ⟨v, hvexec, hxv⟩ := exec_ctrxor_streamXored (s := { s with buf := m12 }) (len := a + b) hm12 hv hlen
  have htake := hxt.takeBytes m2 b
  have hlong := (s.takeBytes_buf m12 (a + b)).trans (by rw [s.takeBytes_add a b])
  refine ⟨t, u, v, ht, hu, hvexec, fun i hi => ?_, fun i hi => ?_, ?_⟩
  · rw [hxv.xored i (by omega), hxt.xored i hi, hlong, List.getD_append _ _ _ _ (by rw [State.takeBytes_length]; exact hi)]
    exact congrArg (· ^^^ _) (hfirst i hi)
  · rw [hxv.xored (a + i) (by omega), hxu.xored i hi, hlong, htake,
      List.getD_append_right _ _ _ _ (by rw [State.takeBytes_length]; omega), State.takeBytes_length,
      Nat.add_sub_cancel_left]
    exact congrArg (· ^^^ _) (hsecond i hi)
  · rw [hxv.frame, hxu.frame, hlong, htake]
    exact ⟨rfl, rfl, rfl, rfl⟩

/-! ## Decryption -/

/-- The same `n` keystream bytes XORed in twice leave BUF as it was (R136, R138 (b)). -/
theorem StreamXored.twice {u : State} (hfirst : StreamXored len s t)
    (hsecond : StreamXored len { s with buf := t.buf } u) (h : Memory.wf s.buf = true) : u = { t with buf := s.buf } := by
  have hbuf : u.buf = s.buf := by
    refine Memory.ext_of_read hsecond.wf h fun a => ?_
    change u.bufByte a = s.bufByte a
    rcases Nat.lt_or_ge a len with ha | ha
    · have hagain : u.bufByte a = t.bufByte a ^^^ (s.takeBytes len).1.getD a 0 := by
        rw [hsecond.xored a ha, State.takeBytes_buf]
        rfl
      rw [hagain, hfirst.xored a ha, BitVec.xor_assoc, BitVec.xor_self, BitVec.xor_zero]
    · exact (hsecond.kept a ha).trans (hfirst.kept a ha)
  calc u = { (s.takeBytes len).2 with buf := u.buf, code := .ok } := by rw [hsecond.frame, State.takeBytes_buf]
    _ = { t with buf := s.buf } := by rw [hbuf, hfirst.frame]

/-- Starting the stream again takes back what `CTRXOR` did to the counter unit (R132, R138 (b)). -/
theorem StreamXored.initCounter {iv : Word} (h : StreamXored len (s.initCounter iv).succeed t) :
    (t.initCounter iv).succeed = { (s.initCounter iv).succeed with buf := t.buf } := by
  rw [t.initCounter_fields, h.frame_eq, s.initCounter_fields]
  rfl

/-- Settles O39: started again, the stream gives the same bytes, and XORing them in twice undoes itself. -/
theorem streamDecryptsItself : Obligations.StreamDecryptsItself := by
  intro len s h hlen
  have hbuf : (s.initCounter s.arg0).succeed.buf = s.buf := by rw [State.initCounter_eq]; rfl
  have hcfg : (s.initCounter s.arg0).succeed.cfg = s.cfg := by rw [State.initCounter_eq]; rfl
  obtain ⟨t, ht, hxt⟩ := exec_ctrxor_streamXored (s := (s.initCounter s.arg0).succeed) (hbuf ▸ h) rfl (hcfg ▸ hlen)
  have harg : t.arg0 = s.arg0 := by rw [hxt.frame_eq, State.initCounter_eq]; rfl
  have hinit : exec .ctrinit t = .next { (s.initCounter s.arg0).succeed with buf := t.buf } := by
    rw [exec_ctrinit, harg, hxt.initCounter]
  obtain ⟨u, hu, hxu⟩ := exec_ctrxor_streamXored (s := { (s.initCounter s.arg0).succeed with buf := t.buf }) hxt.wf rfl
    (hcfg ▸ hlen)
  exact ⟨_, t, _, u, exec_ctrinit s, ht, hinit, hu, hbuf ▸ hxt.twice hxu (hbuf ▸ h)⟩

end Sys2Proof.Machine
end

section
/-! The fixed frames as FRM holds them (O40; spec 42_command_frames.md R150 to R153). -/

namespace Sys2Proof.Machine

/-- The fixed frame with opcode byte `o` fills FRM with its two head bytes and fourteen zeros (R150 to R153). -/
theorem frameBuffer_fixed_toList (o : Byte) :
    (frameBuffer 0x04#8 o [0#8, 0#8, 0#8]).toList = [0x04, o, 0, 0, 0, 0, 0, 0, 0, 0, 0, 0, 0, 0, 0, 0] :=
  frameBuffer_toList _ _ (by decide)

/-- An operation that puts the fixed frame with opcode byte `o` and succeeds leaves that frame in FRM, and writes
nothing but FRM, `FLEN` and `CODE` (R150 to R153, R203). -/
theorem fixedFrame_built {i : Instr} {s : State} {o : Byte}
    (h : exec i s = .next (s.putFrame 0x04#8 o [0#8, 0#8, 0#8]).succeed) :
    ∃ t, exec i s = .next t ∧ t.frm.toList = [0x04, o, 0, 0, 0, 0, 0, 0, 0, 0, 0, 0, 0, 0, 0, 0] ∧ t.flen = 5 ∧
      t = { s with frm := t.frm, flen := 5, code := .ok } :=
  ⟨_, h, frameBuffer_fixed_toList o, rfl, rfl⟩

/-- Settles O40: each of the three operations is `PutFrame` of its opcode byte and three zero bytes, then `succeed`. -/
theorem fixedFramesAreBuilt : Obligations.FixedFramesAreBuilt := fun _ =>
  ⟨fixedFrame_built (i := .frqry) rfl, fixedFrame_built (i := .frstart) rfl, fixedFrame_built (i := .frstop) rfl⟩

end Sys2Proof.Machine
end

section
/-! The end of a wait at its deadline (O59; spec 44_host_protocol.md R175, R177, R179). -/

namespace Sys2Proof.Machine

/-- What a wait that ends hands to its caller (R179): all the buffered bytes if they are more than one, else none. -/
def Link.replyOnEnd (l : Link) : List Byte := if 1 < l.rx.length then l.rx else []

section
variable {l : Link}

theorem Link.replyOnEnd_of_one_lt (h : 1 < l.rx.length) : l.replyOnEnd = l.rx := if_pos h

theorem Link.replyOnEnd_of_le_one (h : l.rx.length ≤ 1) : l.replyOnEnd = [] := if_neg (Nat.not_lt.2 h)

/-- A reply of 5 bytes is 5 buffered bytes: what is withheld is too short to be one. -/
theorem Link.replyOnEnd_length_eq_five : l.replyOnEnd.length = 5 ↔ l.rx.length = 5 := by
  rcases Nat.lt_or_ge 1 l.rx.length with h | h
  · rw [Link.replyOnEnd_of_one_lt h]
  · rw [Link.replyOnEnd_of_le_one h, List.length_nil]
    omega

theorem Link.replyOnEnd_of_length_eq_five (h : l.rx.length = 5) : l.replyOnEnd = l.rx :=
  Link.replyOnEnd_of_one_lt (by omega)

/-- A query is answered yes only for 5 buffered bytes, the last of them 1 (R175). -/
theorem Link.matLoaded_of_replyOnEnd : ∃ b, replyResult .query l.replyOnEnd = .matLoaded b ∧
    (b = true ↔ l.rx.length = 5 ∧ l.rx.getD 4 0 = 1) := by
  refine ⟨_, rfl, ?_⟩
  rw [Bool.and_eq_true, decide_eq_true_eq, decide_eq_true_eq, Link.replyOnEnd_length_eq_five]
  exact and_congr_right fun h => by rw [Link.replyOnEnd_of_length_eq_five h]

/-- A move succeeds only for 5 buffered bytes (R177). -/
theorem Link.moved_of_replyOnEnd : ∃ b, replyResult .move l.replyOnEnd = .moved b ∧
    (b = true ↔ l.rx.length = 5) :=
  ⟨_, rfl, decide_eq_true_iff.trans Link.replyOnEnd_length_eq_five⟩

end

variable {s : State} {p : Pending} {rest : List Event}

theorem State.endWait_phase : (s.endWait p).phase = .connected := by
  rw [State.endWait_eq]
  split <;> rfl

theorem State.endWait_callResult : (s.endWait p).callResult = replyResult p s.link.replyOnEnd := by
  rw [State.endWait_eq, Link.replyOnEnd]
  split <;> rfl

theorem State.endWait_link_of_le_one (h : s.link.rx.length ≤ 1) : (s.endWait p).link = s.link := by
  rw [State.endWait_eq, if_neg (Nat.not_lt.2 h)]

theorem State.endWait_link_of_one_lt (h : 1 < s.link.rx.length) : (s.endWait p).link = { s.link with rx := [] } := by
  rw [State.endWait_eq, if_pos h]

/-- A waiting host's deadline is taken from the front of the agenda, being the outside's, and ends the wait. -/
theorem step_deadline_awaiting (ha : s.agenda = .deadline :: rest) (hp : s.phase = .awaiting p) :
    step s = .next (State.endWait { s with agenda := rest } p) := by
  have htake : s.takeEvent = some (.deadline, { s with agenda := rest }) := by
    rw [State.takeEvent_awaiting hp, ha]
    rfl
  rw [step_of_takeEvent htake]
  simp only [runEvent, State.deadlineElapses, hp]

/-- Settles O59: the step is `endWait` (`step_deadline_awaiting`), whose call result is the caller's reading of
`Link.replyOnEnd` and which writes phase, call result and link only. -/
theorem hostWaitEndsAtItsDeadline : Obligations.HostWaitEndsAtItsDeadline := by
  intro s rest p ha hp
  refine ⟨_, step_deadline_awaiting ha hp, State.endWait_phase,
    fun h => State.endWait_link_of_le_one h, fun h => State.endWait_link_of_one_lt h, ?_, ?_, ?_, ?_⟩
  · rintro rfl
    rw [State.endWait_callResult]
    exact Link.matLoaded_of_replyOnEnd
  · rintro rfl
    rw [State.endWait_callResult]
    exact Link.moved_of_replyOnEnd
  · rintro n rfl
    exact State.endWait_callResult
  · have hframe := State.endWait_frame { s with agenda := rest } p
    rwa [State.endWait_phase] at hframe

end Sys2Proof.Machine
end

section
/-! The calls `connect()` and `disconnect()` (O58; spec 44_host_protocol.md R173, R174, R182). -/

namespace Sys2Proof.Machine

variable {s : State} {c : ClientCall} {rest : List Event}

theorem step_call_connected (ha : s.agenda = .call c :: rest) (hp : s.phase = .connected) :
    step s = connectedCall c { s with agenda := rest } := by
  rw [step_of_agenda (by rw [hp]; exact nofun) ha]
  simp only [runEvent, clientCall, hp]

theorem step_call_disconnected (ha : s.agenda = .call c :: rest) (hp : s.phase = .disconnected) :
    step s = disconnectedCall c { s with agenda := rest } := by
  rw [step_of_agenda (by rw [hp]; exact nofun) ha]
  simp only [runEvent, clientCall, hp]

theorem State.connect_of_no_device (hd : s.link.devices = 0) : s.connect = { s with callResult := .noDevice } := by
  rw [State.connect_eq, if_pos hd]

theorem State.connect_of_configures (hd : 0 < s.link.devices) (hc : s.link.configures = true) : s.connect =
    { s with phase := .connected, callResult := .connected,
             link := { s.link with handle := some 0, settings :=
               ⟨some Config.baudRate, some Config.linkTimeouts, some ⟨8, 0, 1⟩⟩ } } := by
  rw [State.connect_eq, if_neg hd.ne', if_pos hc]

theorem State.connect_of_not_configures (hd : 0 < s.link.devices) (hc : s.link.configures = false) : s.connect =
    { s with callResult := .linkConfigurationError,
             link := { s.link with handle := none, settings := LinkSettings.unset } } := by
  rw [State.connect_eq, if_neg hd.ne', if_neg (Bool.not_eq_true _ ▸ hc)]

/-- Settles O58: while disconnected `connect()` is `State.connect`, by what the link's outside has, and `disconnect()`
nothing; while connected `disconnect()` is `State.disconnect`. -/
theorem hostConnectAndDisconnect : Obligations.HostConnectAndDisconnect := by
  refine fun s rest => ⟨fun ha hp => ?_, step_call_connected, step_call_disconnected⟩
  have hstep : step s = .next (State.connect { s with agenda := rest }) := step_call_disconnected ha hp
  exact ⟨fun hd => hstep.trans (congrArg _ (State.connect_of_no_device hd)),
    fun hd hc => hstep.trans (congrArg _ (State.connect_of_configures hd hc)),
    fun hd hc => hstep.trans (congrArg _ (State.connect_of_not_configures hd hc))⟩

end Sys2Proof.Machine
end

section
/-! The checks of the operations: which of them fails, with which code, and that nothing else reports that code (O16 to
O21; spec 60_exceptions.md R200 to R214). -/

namespace Sys2Proof.Machine

variable {i : Instr} {c : ResultCode} {s t : State}

/-- The failing checks of the operations, each with the code it reports, in an engine of capacity `nmax` whose `CVALID` is
`cvalid` (R205, R206, R208, R209). Where an operation has two checks, the premises of the later one say that the earlier one
holds, so an operation fails with one code at most (R214). -/
inductive Raises (nmax : Nat) (cvalid : Bool) : Instr → ResultCode → Prop where
  | degenerate {n : Int} : -1 ≤ n → n ≤ 1 → Raises nmax cvalid (.xform n) .degenerate
  | payloadLength {i : Instr} {len : Nat} : i = .encb len ∨ i = .decb len → len % 4 ≠ 0 ∨ len < 8 →
      Raises nmax cvalid i .invalidPayloadLength
  | vectorTooLong {n : Int} : 2 ≤ n.natAbs → nmax < n.natAbs → Raises nmax cvalid (.xform n) .vectorRange
  | payloadTooLong {i : Instr} {len : Nat} : i = .encb len ∨ i = .decb len → len % 4 = 0 → 8 ≤ len → nmax < len / 4 →
      Raises nmax cvalid i .vectorRange
  | streamTooLong {len : Nat} : cvalid = true → 4 * nmax < len → Raises nmax cvalid (.ctrxor len) .vectorRange
  | counterUninit {i : Instr} : i = .ctrregen ∨ i = .ctrnext ∨ (∃ len, i = .ctrxor len) → cvalid = false →
      Raises nmax cvalid i .ctrUninit

/-! ## A failing check -/

theorem payloadLengthOk_eq_false {len : Nat} (h : len % 4 ≠ 0 ∨ len < 8) : payloadLengthOk len = false := by
  simp only [payloadLengthOk, Bool.and_eq_false_iff, decide_eq_false_iff_not]
  omega

theorem exec_payload_fails {len : Nat} (hi : i = .encb len ∨ i = .decb len) (h : len % 4 ≠ 0 ∨ len < 8) (s : State) :
    exec i s = .next (s.fail .invalidPayloadLength) := by
  rcases hi with rfl | rfl
  · change execEncb len s = _
    rw [execEncb, payloadLengthOk_eq_false h]
    rfl
  · change execDecb len s = _
    rw [execDecb, payloadLengthOk_eq_false h]
    rfl

theorem exec_xform_fails {n : Int} (hn : 2 ≤ n.natAbs) (h : s.cfg.nmax < n.natAbs) :
    exec (.xform n) s = .next (s.fail .vectorRange) := by
  obtain ⟨m, rfl | rfl⟩ := n.eq_nat_or_neg
  · rw [exec_xform_natCast (by omega), if_pos (by omega)]
  · rw [exec_xform_neg_natCast (by omega), if_pos (by omega)]

/-- A failing check ends the operation: its code is reported, and that is all (R201). -/
theorem exec_of_raises (h : Raises s.cfg.nmax s.cvalid i c) : exec i s = .next (s.fail c) := by
  cases h with
  | @degenerate n hlow hhigh =>
    change execXform n s = _
    rw [execXform, if_neg (by omega), if_neg (by omega)]
  | payloadLength hi hlen => exact exec_payload_fails hi hlen s
  | vectorTooLong hn hmax => exact exec_xform_fails hn hmax
  | payloadTooLong hi hmod hlen hmax =>
    rcases hi with rfl | rfl
    · rw [exec_encb_eq_xform hmod hlen, exec_xform_fails (by omega) (by omega)]
    · rw [exec_decb_eq_xform hmod hlen, exec_xform_fails (by omega) (by omega)]
  | @streamTooLong len hv hlen =>
    change execCtrxor len s = _
    rw [execCtrxor, hv, if_neg (by decide), Config.bufBytes, if_pos hlen]
  | counterUninit hi hv =>
    rcases hi with rfl | rfl | ⟨len, rfl⟩
    · change execCtrregen s = _
      rw [execCtrregen, hv]
      rfl
    · change execCtrnext s = _
      rw [execCtrnext, hv]
      rfl
    · change execCtrxor len s = _
      rw [execCtrxor, hv]
      rfl

/-! ## An operation without a failing check -/

/-- The operation runs to its `succeed`, and nothing before that touched `FAULT` (R203). -/
def RunsToSuccess (i : Instr) (s : State) : Prop := ∃ u : State, exec i s = .next u.succeed ∧ u.fault = s.fault

theorem xform_raises_or_succeeds (n : Int) (s : State) :
    (∃ c, Raises s.cfg.nmax s.cvalid (.xform n) c) ∨ RunsToSuccess (.xform n) s := by
  rcases Nat.lt_or_ge n.natAbs 2 with hdeg | hn
  · exact .inl ⟨_, .degenerate (by omega) (by omega)⟩
  rcases Nat.lt_or_ge s.cfg.nmax n.natAbs with hmax | hmax
  · exact .inl ⟨_, .vectorTooLong hn hmax⟩
  obtain ⟨m, rfl | rfl⟩ := n.eq_nat_or_neg
  · exact .inr ⟨_, exec_xform_encodes (by omega) (by omega), by rw [State.encodeVec_eq]⟩
  · exact .inr ⟨_, exec_xform_decodes (by omega) (by omega), by rw [State.decodeVec_eq]⟩

theorem payload_raises_or_succeeds {len : Nat} (hi : i = .encb len ∨ i = .decb len) (s : State) :
    (∃ c, Raises s.cfg.nmax s.cvalid i c) ∨ RunsToSuccess i s := by
  by_cases hbad : len % 4 ≠ 0 ∨ len < 8
  · exact .inl ⟨_, .payloadLength hi hbad⟩
  obtain ⟨hmod, hlen⟩ : len % 4 = 0 ∧ 8 ≤ len := by omega
  rcases Nat.lt_or_ge s.cfg.nmax (len / 4) with hmax | hmax
  · exact .inl ⟨_, .payloadTooLong hi hmod hlen hmax⟩
  rcases hi with rfl | rfl
  · exact .inr ⟨_, (exec_encb_eq_xform hmod hlen s).trans (exec_xform_encodes (by omega) hmax),
      by rw [State.encodeVec_eq]⟩
  · exact .inr ⟨_, (exec_decb_eq_xform hmod hlen s).trans (exec_xform_decodes (by omega) hmax),
      by rw [State.decodeVec_eq]⟩

theorem ctrxor_raises_or_succeeds (len : Nat) (hv : s.cvalid = true) :
    (∃ c, Raises s.cfg.nmax s.cvalid (.ctrxor len) c) ∨ RunsToSuccess (.ctrxor len) s := by
  rcases Nat.lt_or_ge (4 * s.cfg.nmax) len with hlen | hlen
  · exact .inl ⟨_, .streamTooLong hv hlen⟩
  · exact .inr ⟨_, exec_ctrxor_of_cvalid hv hlen, by rw [State.xorStream_eq]⟩

/-- The checks of `Raises` are all there are: an operation fails one of them or succeeds. -/
theorem exec_raises_or_succeeds (hi : i.isCommand = true) (s : State) :
    (∃ c, Raises s.cfg.nmax s.cvalid i c) ∨ RunsToSuccess i s := by
  cases i with
  | xform n => exact xform_raises_or_succeeds n s
  | encb len => exact payload_raises_or_succeeds (.inl rfl) s
  | decb len => exact payload_raises_or_succeeds (.inr rfl) s
  | ctrinit0 => exact .inr ⟨_, rfl, by rw [State.initCounter_eq]⟩
  | ctrinit => exact .inr ⟨_, rfl, by rw [State.initCounter_eq]⟩
  | ctrregen =>
    cases hv : s.cvalid with
    | false => exact .inl ⟨_, .counterUninit (.inl rfl) rfl⟩
    | true => exact .inr ⟨_, exec_ctrregen_of_cvalid hv, by rw [State.regen_eq]⟩
  | ctrnext =>
    cases hv : s.cvalid with
    | false => exact .inl ⟨_, .counterUninit (.inr (.inl rfl)) rfl⟩
    | true => exact .inr ⟨_, exec_ctrnext_of_cvalid hv, by rw [State.nextByte_eq]⟩
  | ctrxor len =>
    cases hv : s.cvalid with
    | false => exact .inl ⟨_, .counterUninit (.inr (.inr ⟨len, rfl⟩)) rfl⟩
    | true => exact hv ▸ ctrxor_raises_or_succeeds len hv
  | frqry | frstart | frstop | frmvu | frmvd => exact .inr ⟨_, rfl, rfl⟩
  | wireQueryMatLoaded | wireStartCut | wireStopCut | wireMovePenUp | wireMovePenDown => cases hi

/-- The two ends of an operation: a failing check, or success (R201, R203). -/
theorem exec_command_cases (hi : i.isCommand = true) (h : exec i s = .next t) :
    (∃ c, Raises s.cfg.nmax s.cvalid i c ∧ t = s.fail c) ∨ (t.code = .ok ∧ t.fault = s.fault) := by
  rcases exec_raises_or_succeeds hi s with ⟨c, hc⟩ | ⟨u, hu, hfault⟩
  · cases (exec_of_raises hc).symm.trans h
    exact .inl ⟨c, hc, rfl⟩
  · cases hu.symm.trans h
    exact .inr ⟨rfl, hfault⟩

/-- No check of an operation reports `OK`, or one of the codes of the port: these are for illegal words and for accesses
that are not well formed (R210, R211). -/
theorem Raises.code_ne {nmax : Nat} {cvalid : Bool} (h : Raises nmax cvalid i c) :
    c ≠ .ok ∧ c ≠ .illegalOp ∧ c ≠ .accessFault := by
  cases h <;> decide

/-- A word that decodes is an operation's (R72). -/
theorem isCommand_of_decode {v : Word} (h : decode v = .ok i) : i.isCommand = true := by
  obtain ⟨-, -, hi⟩ := commandDecodeThenEncode v i h
  exact hi

/-! ## The codes a port action reports -/

/-- A port access that faults: what it changes, the data of a read and the counter of their draws left open (R49, R52). -/
def AccessFaulted (s t : State) : Prop :=
  t = { s with code := .accessFault, fault := true, reply := t.reply, faultReads := t.faultReads }

theorem accessFaulted_faultingRead (s : State) : AccessFaulted s s.faultingRead := by
  rw [AccessFaulted, State.faultingRead_eq]

theorem accessFaulted_faultingWrite (s : State) : AccessFaulted s s.faultingWrite := by
  rw [AccessFaulted, State.faultingWrite_eq]

/-- Where `CODE` comes from: an action keeps it or makes it `OK`, or an access faults, or a word is written to `CMD` that is
illegal or whose operation fails a check. -/
theorem hostAction_code_cases {a : HostAction} (h : hostAction a s = .next t) :
    (t.code = s.code ∨ t.code = .ok) ∨ AccessFaulted s t ∨
      ∃ v, a = .regWrite 0 32 v ∧
        (t.code = .illegalOp ∨ ∃ i, decode v = .ok i ∧ Raises s.cfg.nmax s.cvalid i t.code) := by
  cases a with
  | regRead index width =>
    cases h
    rcases regRead_cases index width s with hr | ⟨v, hr⟩ <;> rw [hr]
    · exact .inr (.inl (accessFaulted_faultingRead s))
    · exact .inl (.inl rfl)
  | regWrite index width v =>
    rcases regWrite_cases h with rfl | ⟨rfl, rfl, h⟩ | h
    · exact .inr (.inl (accessFaulted_faultingWrite s))
    · rcases issue_cases h with ⟨i, hd, h⟩ | rfl
      · rcases exec_command_cases (isCommand_of_decode hd) h with ⟨c, hc, rfl⟩ | ⟨hok, -⟩
        · exact .inr (.inr ⟨v, rfl, .inr ⟨i, hd, hc⟩⟩)
        · exact .inl (.inr hok)
      · exact .inr (.inr ⟨v, rfl, .inl rfl⟩)
    · exact .inl (.inl (by rw [h]))
  | memRead space addr n =>
    cases h
    rcases memRead_cases space addr n s with hr | ⟨v, hr⟩ <;> rw [hr]
    · exact .inr (.inl (accessFaulted_faultingRead s))
    · exact .inl (.inl rfl)
  | memWrite space addr n v =>
    cases h
    rcases memWrite_cases space addr n v s with hr | hr
    · rw [hr]
      exact .inr (.inl (accessFaulted_faultingWrite s))
    · exact .inl (.inl (by rw [hr]))
  | reset =>
    cases h
    exact .inl (.inr rfl)

/-- A newly reported code other than the port's own two comes from a check of the operation just issued. -/
theorem raises_of_hostAction {a : HostAction} (h : hostAction a s = .next t) (hs : s.code ≠ c) (ht : t.code = c)
    (hc : c ≠ .ok ∧ c ≠ .illegalOp ∧ c ≠ .accessFault) :
    ∃ v i, a = .regWrite 0 32 v ∧ decode v = .ok i ∧ Raises s.cfg.nmax s.cvalid i c := by
  obtain ⟨hok, hillegal, haccess⟩ := hc
  subst ht
  rcases hostAction_code_cases h with (hsame | hdone) | hfault | ⟨v, ha, hword | ⟨i, hd, hr⟩⟩
  · exact absurd hsame.symm hs
  · exact absurd hdone hok
  · exact absurd (congrArg State.code hfault) haccess
  · exact absurd hword hillegal
  · exact ⟨v, i, ha, hd, hr⟩

/-! ## The statements -/

/-- A fatal code sets `FAULT`, whatever it was (R200). -/
theorem State.fail_of_fatal (hc : c.fatal = true) (s : State) : s.fail c = { s with code := c, fault := true } := by
  rw [State.fail, hc, Bool.or_true]

/-- A failing check of a fatal code, in the words of R201. -/
theorem exec_of_raises_fatal (h : Raises s.cfg.nmax s.cvalid i c) (hc : c.fatal = true) :
    exec i s = .next { s with code := c, fault := true } :=
  (exec_of_raises h).trans (congrArg _ (s.fail_of_fatal hc))

/-- An operation that does not succeed has failed a check, and is then `State.fail` (R201). -/
theorem exec_eq_fail (hi : i.isCommand = true) (h : exec i s = .next t) (hc : t.code ≠ .ok) : t = s.fail t.code := by
  rcases exec_command_cases hi h with ⟨c, -, rfl⟩ | ⟨hok, -⟩
  · rfl
  · exact absurd hok hc

/-- Settles O16: an operation that fails is `State.fail` (`exec_eq_fail`), an illegal word is too, and `AccessFault` is
reported by no check of an operation. -/
theorem failuresArePrecise : Obligations.FailuresArePrecise := by
  refine ⟨fun i s t hi => exec_eq_fail hi, fun v s t h hc => ?_, fun a s t h hs ht => ?_⟩
  · rcases issue_cases h with ⟨i, hd, h⟩ | rfl
    · exact exec_eq_fail (isCommand_of_decode hd) h hc
    · rfl
  · rcases hostAction_code_cases h with (hsame | hok) | hfault | ⟨v, -, hillegal | ⟨i, -, hr⟩⟩
    · exact absurd (hsame.symm.trans ht) hs
    · exact nomatch hok.symm.trans ht
    · exact hfault
    · exact nomatch hillegal.symm.trans ht
    · obtain ⟨-, -, hne⟩ := hr.code_ne
      exact absurd ht hne

/-- Settles O17: an operation that ends with `OK` failed no check, and `CVALID` is as `exec_cvalid` says of every
instruction. -/
theorem successKeepsFaultAndCvalid : Obligations.SuccessKeepsFaultAndCvalid := by
  intro i s t hi h hok
  rcases exec_command_cases hi h with ⟨c, hr, rfl⟩ | ⟨-, hfault⟩
  · obtain ⟨hne, -⟩ := hr.code_ne
    exact absurd hok hne
  · exact ⟨congrArg ResultCode.value hok, hfault, exec_cvalid h⟩

/-- Settles O18: `Raises.degenerate` is the one check that reports `Degenerate`, and the code is not fatal. -/
theorem degenerateExactly : Obligations.DegenerateExactly := by
  refine ⟨fun n s hlow hhigh => ?_, fun a s t h hs ht => ?_⟩
  · rw [exec_of_raises (.degenerate hlow hhigh), State.fail, ResultCode.fatal, Bool.or_false]
  · obtain ⟨v, i, ha, hd, hr⟩ := raises_of_hostAction h hs ht (by decide)
    cases hr with
    | degenerate hlow hhigh => exact ⟨v, _, ha, hd, hlow, hhigh⟩

/-- Settles O19: `Raises.payloadLength` is the one check that reports `InvalidPayloadLength`. -/
theorem invalidPayloadLengthExactly : Obligations.InvalidPayloadLengthExactly := by
  refine ⟨fun len s hlen => ⟨?_, ?_⟩, fun a s t h hs ht => ?_⟩
  · exact exec_of_raises_fatal (.payloadLength (.inl rfl) hlen) rfl
  · exact exec_of_raises_fatal (.payloadLength (.inr rfl) hlen) rfl
  · obtain ⟨v, i, ha, hd, hr⟩ := raises_of_hostAction h hs ht (by decide)
    cases hr with
    | payloadLength hi hlen => exact ⟨v, _, ha, hi.imp (· ▸ hd) (· ▸ hd), hlen⟩

/-- Settles O20: three checks of `Raises` report `VectorRange`. -/
theorem vectorRangeExactly : Obligations.VectorRangeExactly := by
  refine ⟨fun n s hn hmax => ?_, fun len s hmod hlen hmax => ⟨?_, ?_⟩, fun len s hv hlen => ?_, fun a s t h hs ht => ?_⟩
  · exact exec_of_raises_fatal (.vectorTooLong hn hmax) rfl
  · exact exec_of_raises_fatal (.payloadTooLong (.inl rfl) hmod hlen hmax) rfl
  · exact exec_of_raises_fatal (.payloadTooLong (.inr rfl) hmod hlen hmax) rfl
  · exact exec_of_raises_fatal (.streamTooLong hv hlen) rfl
  · obtain ⟨v, i, ha, hd, hr⟩ := raises_of_hostAction h hs ht (by decide)
    refine ⟨v, i, ha, hd, ?_⟩
    cases hr with
    | vectorTooLong hn hmax => exact .inl ⟨_, rfl, hn, hmax⟩
    | payloadTooLong hi hmod hlen hmax => exact .inr (.inl ⟨_, hi, hmod, hlen, hmax⟩)
    | streamTooLong hv hlen => exact .inr (.inr ⟨_, rfl, hv, hlen⟩)

/-- Settles O21: `Raises.counterUninit` is the one check that reports `CtrUninit`. -/
theorem ctrUninitExactly : Obligations.CtrUninitExactly := by
  refine ⟨fun s hv => ⟨?_, ?_, fun len => ?_⟩, fun a s t h hs ht => ?_⟩
  · exact exec_of_raises_fatal (.counterUninit (.inl rfl) hv) rfl
  · exact exec_of_raises_fatal (.counterUninit (.inr (.inl rfl)) hv) rfl
  · exact exec_of_raises_fatal (.counterUninit (.inr (.inr ⟨len, rfl⟩)) hv) rfl
  · obtain ⟨v, i, ha, hd, hr⟩ := raises_of_hostAction h hs ht (by decide)
    cases hr with
    | counterUninit hi hv => exact ⟨hv, v, i, ha, hd, hi⟩

end Sys2Proof.Machine
end

section
/-! `FAULT` blocks nothing and is sticky (O12; spec 60_exceptions.md R202): every action of the port but a reset and a read of
`STATUS` runs with `FAULT` set as it does without, and the host software reaches the engine through the port only. -/

namespace Sys2Proof.Machine

/-- The state with `FAULT` set and everything else as it was. -/
def State.withFault (s : State) : State := { s with fault := true }

/-! ## The operations on the state neither read nor clear `FAULT` -/

section
variable (s : State)

@[simp] theorem State.withFault_low : s.withFault.low = s.low := rfl

@[simp] theorem State.withFault_cur : s.withFault.cur = s.cur := rfl

theorem State.withFault_eq_iff : s.withFault = s ↔ s.fault = true := by
  refine ⟨fun h => ?_, fun h => ?_⟩
  · rw [← h]
    rfl
  · rw [State.withFault, ← h]

theorem State.setBufBytes_withFault (a : Nat) (bs : List Byte) :
    s.withFault.setBufBytes a bs = (s.setBufBytes a bs).withFault := by
  induction bs generalizing s a with
  | nil => rfl
  | cons b bs ih => exact ih (s.setBufByte a b) (a + 1)

theorem State.setVecWord_withFault (i : Nat) (w : Word) : s.withFault.setVecWord i w = (s.setVecWord i w).withFault :=
  s.setBufBytes_withFault _ _

theorem State.storeVecFrom_withFault (i : Nat) (ws : List Word) :
    s.withFault.storeVecFrom i ws = (s.storeVecFrom i ws).withFault := by
  induction ws generalizing s i with
  | nil => rfl
  | cons w ws ih => rw [State.storeVecFrom, State.setVecWord_withFault, ih, State.storeVecFrom]

theorem State.encodeVec_withFault (n : Nat) : s.withFault.encodeVec n = (s.encodeVec n).withFault :=
  s.storeVecFrom_withFault 0 _

theorem State.decodeVec_withFault (n : Nat) : s.withFault.decodeVec n = (s.decodeVec n).withFault :=
  s.storeVecFrom_withFault 0 _

theorem State.regen_withFault : s.withFault.regen = s.regen.withFault := by
  unfold State.regen
  rw [State.withFault_low]
  split <;> rfl

theorem State.nextByte_withFault : s.withFault.nextByte = (s.nextByte.1, s.nextByte.2.withFault) := by
  unfold State.nextByte
  rw [State.withFault_cur, State.regen_withFault]
  split <;> rfl

theorem State.xorStream_withFault (a n : Nat) : s.withFault.xorStream a n = (s.xorStream a n).withFault := by
  induction n generalizing s a with
  | zero => rfl
  | succ n ih =>
    rw [State.xorStream, State.nextByte_withFault]
    exact ih (s.nextByte.2.setBufByte a (s.nextByte.2.bufByte a ^^^ s.nextByte.1)) (a + 1)

theorem State.initCounter_withFault (iv : Word) : s.withFault.initCounter iv = (s.initCounter iv).withFault := by
  unfold State.initCounter
  change ({ State.regen (State.withFault { s with high := 0, low := iv }) with cvalid := true } : State) = _
  rw [State.regen_withFault]
  rfl

end

/-! ## The operations and the port -/

/-- The outcome with `FAULT` set. -/
def nextWithFault : Result → Result
  | .next t => .next t.withFault
  | .fault f => .fault f
  | .refused r => .refused r

theorem nextWithFault_ite {p : Prop} [Decidable p] {a b a' b' : Result} (ha : a' = nextWithFault a)
    (hb : b' = nextWithFault b) : (if p then a' else b') = nextWithFault (if p then a else b) := by
  rw [ha, hb, apply_ite nextWithFault]

theorem next_succeed_withFault {u u' : State} (h : u' = u.withFault) :
    Host.Outcome.next u'.succeed = nextWithFault (.next u.succeed) := by
  rw [h]
  rfl

theorem exec_withFault (i : Instr) (s : State) : exec i s.withFault = nextWithFault (exec i s) := by
  cases i with
  | xform n =>
    exact nextWithFault_ite (nextWithFault_ite rfl (next_succeed_withFault (s.encodeVec_withFault _)))
      (nextWithFault_ite (nextWithFault_ite rfl (next_succeed_withFault (s.decodeVec_withFault _))) rfl)
  | encb len =>
    exact nextWithFault_ite rfl (nextWithFault_ite rfl (next_succeed_withFault (s.encodeVec_withFault _)))
  | decb len =>
    exact nextWithFault_ite rfl (nextWithFault_ite rfl (next_succeed_withFault (s.decodeVec_withFault _)))
  | ctrinit0 | ctrinit => exact next_succeed_withFault (s.initCounter_withFault _)
  | ctrregen => exact nextWithFault_ite rfl (next_succeed_withFault s.regen_withFault)
  | ctrnext =>
    refine nextWithFault_ite rfl ?_
    rw [State.nextByte_withFault]
    rfl
  | ctrxor len =>
    exact nextWithFault_ite rfl (nextWithFault_ite rfl (next_succeed_withFault (s.xorStream_withFault 0 len)))
  | frqry | frstart | frstop | frmvu | frmvd => rfl
  | wireQueryMatLoaded | wireStartCut | wireStopCut | wireMovePenUp | wireMovePenDown => rfl

theorem issue_withFault (v : Word) (s : State) : issue v s.withFault = nextWithFault (issue v s) := by
  unfold issue
  split
  · exact exec_withFault _ s
  · rfl

/-- `STATUS` is the one register that shows `FAULT` (R17, R24). -/
theorem State.regValue_withFault {index : Nat} (h : index ≠ 1) (s : State) :
    s.withFault.regValue index = s.regValue index := by
  unfold State.regValue
  split
  case h_1 => exact absurd rfl h
  all_goals rfl

theorem regRead_withFault {index : Nat} (h : index ≠ 1) (width : Nat) (s : State) :
    regRead index width s.withFault = (regRead index width s).withFault := by
  unfold regRead
  rw [State.regValue_withFault h]
  split
  · rfl
  · cases s.regValue index <;> rfl

theorem State.setReg_withFault (index : Nat) (v : Word) (s : State) :
    s.withFault.setReg index v = (s.setReg index v).map State.withFault := by
  unfold State.setReg
  split <;> rfl

theorem regWrite_withFault (index width : Nat) (v : Word) (s : State) :
    regWrite index width v s.withFault = nextWithFault (regWrite index width v s) := by
  unfold regWrite
  refine nextWithFault_ite rfl (nextWithFault_ite (issue_withFault v s.noData) ?_)
  rw [State.setReg_withFault]
  cases s.setReg index v <;> rfl

theorem memRead_withFault (space : Space) (addr n : Nat) (s : State) :
    memRead space addr n s.withFault = (memRead space addr n s).withFault := by
  unfold memRead
  rw [apply_ite State.withFault]
  rfl

theorem memWrite_withFault (space : Space) (addr n : Nat) (v : Word) (s : State) :
    memWrite space addr n v s.withFault = (memWrite space addr n v s).withFault := by
  unfold memWrite
  rw [State.setVecWord_withFault, apply_ite State.withFault, apply_ite State.withFault]
  rfl

/-- What an action of the port does does not depend on `FAULT`, and leaves a set `FAULT` set (R202). -/
theorem hostAction_withFault {a : HostAction} (hreset : a ≠ .reset) (hstatus : ∀ width, a ≠ .regRead 1 width) (s : State) :
    hostAction a s.withFault = nextWithFault (hostAction a s) := by
  cases a with
  | regRead index width =>
    have hindex : index ≠ 1 := fun h => hstatus width (h ▸ rfl)
    exact congrArg _ (regRead_withFault hindex width s)
  | regWrite index width v => exact regWrite_withFault index width v s
  | memRead space addr n => exact congrArg _ (memRead_withFault space addr n s)
  | memWrite space addr n v => exact congrArg _ (memWrite_withFault space addr n v s)
  | reset => exact absurd rfl hreset

/-! ## Stickiness -/

section
variable {s t : State}

/-- The one action that shows `FAULT`, a read of `STATUS`, does not write it either. -/
theorem hostAction_fault {a : HostAction} (ha : a ≠ .reset) (hf : s.fault = true) (h : hostAction a s = .next t) :
    t.fault = true := by
  by_cases hstatus : ∃ width, a = .regRead 1 width
  · obtain ⟨width, rfl⟩ := hstatus
    cases h
    rcases regRead_cases 1 width s with hr | ⟨v, hr⟩ <;> rw [hr]
    · exact s.faultingRead_fault
    · exact hf
  · have hsame := hostAction_withFault ha (not_exists.1 hstatus) s
    rw [s.withFault_eq_iff.2 hf, h] at hsame
    exact t.withFault_eq_iff.1 (Host.Outcome.next.inj hsame).symm

theorem hostActions_fault {as : List HostAction} (has : .reset ∉ as) (hf : s.fault = true)
    (h : hostActions as s = .next t) : t.fault = true := by
  induction as generalizing s with
  | nil =>
    cases h
    exact hf
  | cons a as ih =>
    obtain ⟨hhead, htail⟩ := List.ne_and_not_mem_of_not_mem_cons has
    obtain ⟨u, hu⟩ := hostAction_completes a s
    rw [hostActions_cons hu] at h
    exact ih htail (hostAction_fault hhead.symm hf hu) h

/-- The engine of `t` is what actions of the port other than reset make of the engine of `s`; the environment is left
open (R170). -/
def ReachedThroughPort (s t : State) : Prop :=
  ∃ as u p r l, .reset ∉ as ∧ hostActions as s = .next u ∧ t = { u with phase := p, callResult := r, link := l }

theorem ReachedThroughPort.fault (h : ReachedThroughPort s t) (hf : s.fault = true) : t.fault = true := by
  obtain ⟨as, u, p, r, l, has, hu, rfl⟩ := h
  exact hostActions_fault (t := u) has hf hu

theorem reachedThroughPort_of_environment {p : Phase} {r : CallResult} {l : Link}
    (h : t = { s with phase := p, callResult := r, link := l }) : ReachedThroughPort s t :=
  ⟨[], s, p, r, l, List.not_mem_nil, rfl, h⟩

/-- No line but `RESET` resets the engine (R75, R76). -/
theorem reset_notMem_expand {l : Asm} (h : l ≠ .reset) : .reset ∉ l.expand := by
  cases l
  case reset => exact absurd rfl h
  all_goals simp [Asm.expand, issueAction, setrAction]

theorem buildAndSend_reached {l : Asm} {frameLen : Nat} {p : Option Pending}
    (h : buildAndSend l.expand frameLen p s = .next t) (hl : l ≠ .reset) : ReachedThroughPort s t := by
  obtain ⟨u, hu⟩ := hostActions_completes
    (l.expand ++ HostAction.regRead 5 32 :: (List.range frameLen).map fun i => HostAction.memRead .frm i 1) s
  simp only [buildAndSend, hu] at h
  cases h
  exact ⟨_, u, _, _, _, by simp [reset_notMem_expand hl], hu, State.afterSend_frame _ p⟩

theorem connectedCall_reached {c : ClientCall} (h : connectedCall c s = .next t) : ReachedThroughPort s t := by
  cases c with
  | connect => cases h
  | disconnect =>
    cases h
    exact reachedThroughPort_of_environment rfl
  | awaitReply n =>
    cases h
    exact reachedThroughPort_of_environment (s.poll_frame _)
  | queryMatLoaded | start | stop | movePenUp | movePenDown =>
    dsimp only [connectedCall] at h
    exact buildAndSend_reached h nofun

theorem disconnectedCall_reached {c : ClientCall} (h : disconnectedCall c s = .next t) : ReachedThroughPort s t := by
  cases c with
  | connect =>
    cases h
    exact reachedThroughPort_of_environment s.connect_frame
  | disconnect =>
    cases h
    exact reachedThroughPort_of_environment rfl
  | queryMatLoaded | start | stop | movePenUp | movePenDown | awaitReply => cases h

theorem clientCall_reached {c : ClientCall} (h : clientCall c s = .next t) : ReachedThroughPort s t := by
  unfold clientCall at h
  split at h
  · exact connectedCall_reached h
  · exact disconnectedCall_reached h
  · cases h

theorem sendWire_reached {frame : List Byte} (h : sendWire frame s = .next t) : ReachedThroughPort s t := by
  unfold sendWire at h
  split at h
  · next i hd => exact reachedThroughPort_of_environment (exec_wire_eq (decodeWire_isCommand hd) h)
  · cases h

/-- Whatever event but reset a step takes, it reaches the engine through the port (R46, R170). -/
theorem runEvent_reached {e : Event} (he : e ≠ .port .reset) (h : runEvent e s = .next t) : ReachedThroughPort s t := by
  cases e with
  | port a =>
    have ha : .reset ∉ [a] := by
      rw [List.mem_singleton]
      rintro rfl
      exact he rfl
    exact ⟨[a], t, _, _, _, ha, (hostActions_singleton a s).trans h, rfl⟩
  | wire frame => exact sendWire_reached h
  | call c => exact clientCall_reached h
  | received bytes =>
    cases h
    exact reachedThroughPort_of_environment (s.receive_frame bytes)
  | deadline =>
    cases h
    exact reachedThroughPort_of_environment s.deadlineElapses_frame
  | linkIs d c a =>
    cases h
    exact reachedThroughPort_of_environment rfl

end

/-- Settles O12: a step reaches the engine through the port (`runEvent_reached`), and no action of the port but reset
depends on `FAULT` or clears it (`hostAction_withFault`). -/
theorem faultIsStickyAndBlocksNothing : Obligations.FaultIsStickyAndBlocksNothing := by
  refine ⟨fun s t u e hu he hf ht => ?_, fun a s t hreset hstatus h => ?_⟩
  · have huf : u.fault = true := by rwa [State.takeEvent_state s u e hu]
    rw [step_of_takeEvent hu] at ht
    exact (runEvent_reached he ht).fault huf
  · exact (hostAction_withFault hreset hstatus { s with fault := false }).trans (congrArg nextWithFault h)

end Sys2Proof.Machine
end

section
/-! No step changes the configuration (O11; spec 70_reset_and_hazards.md R221): no action of the port does, reset included,
and the environment's own acts leave the engine alone. -/

namespace Sys2Proof.Machine

variable {s t : State}

theorem exec_cfg {i : Instr} (h : exec i s = .next t) : t.cfg = s.cfg := by
  obtain ⟨⟨hcfg, -⟩, -⟩ := instructionsWriteOnlyTheirUnit i s t h
  exact hcfg

theorem regWrite_cfg {index width : Nat} {v : Word} (h : regWrite index width v s = .next t) : t.cfg = s.cfg := by
  rcases regWrite_cases h with rfl | ⟨-, -, h⟩ | h
  · exact s.faultingWrite_cfg
  · rcases issue_cases h with ⟨i, -, hexec⟩ | rfl
    · exact (exec_cfg hexec).trans s.noData_cfg
    · exact (s.noData.fail_cfg .illegalOp).trans s.noData_cfg
  · rw [h]

/-- The configuration is no part of what the port can write, and the reset event keeps it (R11, R221). -/
theorem hostAction_cfg {a : HostAction} (h : hostAction a s = .next t) : t.cfg = s.cfg := by
  cases a with
  | regRead index width =>
    cases h
    rcases regRead_cases index width s with hr | ⟨v, hr⟩ <;> rw [hr]
    · exact s.faultingRead_cfg
    · exact s.answer_cfg v
  | regWrite index width v => exact regWrite_cfg h
  | memRead space addr n =>
    cases h
    rcases memRead_cases space addr n s with hr | ⟨v, hr⟩ <;> rw [hr]
    · exact s.faultingRead_cfg
    · exact s.answer_cfg v
  | memWrite space addr n v =>
    cases h
    rcases memWrite_cases space addr n v s with hr | hr <;> rw [hr]
    exact s.faultingWrite_cfg
  | reset =>
    cases h
    exact s.resetEvent_cfg

theorem hostActions_cfg {as : List HostAction} (h : hostActions as s = .next t) : t.cfg = s.cfg := by
  induction as generalizing s with
  | nil =>
    cases h
    rfl
  | cons a as ih =>
    obtain ⟨u, hu⟩ := hostAction_completes a s
    rw [hostActions_cons hu] at h
    exact (ih h).trans (hostAction_cfg hu)

theorem ReachedThroughPort.cfg (h : ReachedThroughPort s t) : t.cfg = s.cfg := by
  obtain ⟨as, u, p, r, l, -, hu, rfl⟩ := h
  exact hostActions_cfg (t := u) hu

/-- An event is the reset event, or what it does to the engine it does through the port (R46, R170). -/
theorem runEvent_cfg {e : Event} (h : runEvent e s = .next t) : t.cfg = s.cfg := by
  by_cases he : e = .port .reset
  · subst he
    exact hostAction_cfg (a := .reset) h
  · exact (runEvent_reached he h).cfg

/-- Settles O11: a step with no event to take changes nothing, and a step that takes one runs it (`runEvent_cfg`). -/
theorem stepKeepsTheConfiguration : Obligations.StepKeepsTheConfiguration := by
  intro s t h
  cases hu : s.takeEvent with
  | none =>
    cases (step_of_takeEvent_none hu).symm.trans h
    rfl
  | some taken =>
    obtain ⟨e, u⟩ := taken
    have hcfg : u.cfg = s.cfg := by rw [State.takeEvent_state s u e hu]
    rw [step_of_takeEvent hu] at h
    exact (runEvent_cfg h).trans hcfg

end Sys2Proof.Machine
end
